-- ==== Sys2Proof/Word.lean ====
section
/-!
DEFINITION. The words of the Matrix Renderer: bytes, command words and serialised pairs
(spec/00_scope.md R9, R11; spec/30_encoding.md R72, R73).
-/

namespace Sys2Proof

/-- An unsigned byte, bit 0 the least significant (R11): a frame-buffer byte, a register number
(`REG_W = 8`, R9), the data of a pair. -/
abbrev Byte := BitVec 8

/-- A word of format `CMD`, 17 bits: `opc` in bit 16, `reg` in bits 15..8, `data` in bits 7..0 (R73). -/
abbrev CmdWord := BitVec 17

/-- A pair written as one word of format `CRC`, 16 bits: `reg` in bits 15..8, `data` in bits 7..0 (R72). -/
abbrev PairWord := BitVec 16

end Sys2Proof
end

