-- ==== Sys2Proof/Config.lean ====
section
/-!
DEFINITION. What an implementation fixes (spec/00_scope.md R6 to R9) and the free values of the byte
source (spec/42_frame_assembler.md R137, spec/93_implementation_defined.md U15).

`Config` is plain data and every machine state carries one, which no step changes (R6: "fixed for the
lifetime of the machine"), so that a statement about every state speaks of every module count and of
every value of the open parameters. The opaque constants below have no body: no proof can see them.
-/

namespace Sys2Proof

/-- The parameters of R9 that some rule reads. -/
structure Config where
  /-- `M - 1`, the index of the last logical module (DESIGN CHOICE, log entry 1). Holding `M - 1` leaves `M = 0` without
  a value, which is how U18 ("refuse: `M >= 1`") is met. -/
  lastModule : Nat
  /-- How many chips the chain is instantiated with (R145 fault 3, R182); it should be `M`. -/
  chainLength : Nat
  /-- `REG_TEST`, the register number of test mode (OPEN, D15). -/
  regTest : Byte
  /-- `REG_DECODE`, the register number of decode mode (OPEN, D15). -/
  regDecode : Byte
  /-- `REG_SCANLIMIT`, the register number of the scan limit (OPEN, D15). -/
  regScanLimit : Byte
  /-- `REG_SHUTDOWN`, the register number of the shutdown mode (OPEN, D15). -/
  regShutdown : Byte
  /-- `REG_INTENSITY`, the register number of the brightness (OPEN, D15). -/
  regIntensity : Byte
  /-- `VAL_TEST_OFF` (OPEN, D15). -/
  valTestOff : Byte
  /-- `VAL_DECODE_OFF` (OPEN, D15). -/
  valDecodeOff : Byte
  /-- `VAL_SHUTDOWN_NORMAL` (OPEN, D15). -/
  valShutdownNormal : Byte
  /-- `VAL_INTENSITY` (OPEN, D15). -/
  valIntensity : Byte
  /-- `PIXEL_ON`, the bit value that lights a pixel (OPEN, D21). -/
  pixelOn : Bool
  /-- `COL_OF_BIT`, the column of each bit of a row byte (OPEN, D21). -/
  colOfBit : Vector (Fin 8) 8
deriving DecidableEq, Repr

/-- `M`, the module count (R6); at least 1. -/
def Config.modules (c : Config) : Nat := c.lastModule + 1

/-- `FRAME_BYTES = 8 * M`, derived from `M` (R7). -/
def Config.frameBytes (c : Config) : Nat := 8 * c.modules

/-- `FB_AW = ceil(log2(8*M))`, the width in bits of the ports `fb_raddr` and `fb_waddr` (R9, R41; at least 3, since
`8*M >= 8`): one more than the binary logarithm of the last address. -/
def Config.fbAddrWidth (c : Config) : Nat := Nat.log2 (c.frameBytes - 1) + 1

/-- The open register numbers and values of R9 for the reference instance: constants without a body
(U16; DESIGN CHOICE, log entry 2). -/
opaque Config.openRegTest : Byte
opaque Config.openRegDecode : Byte
opaque Config.openRegScanLimit : Byte
opaque Config.openRegShutdown : Byte
opaque Config.openRegIntensity : Byte
opaque Config.openValTestOff : Byte
opaque Config.openValDecodeOff : Byte
opaque Config.openValShutdownNormal : Byte
opaque Config.openValIntensity : Byte

/-- The open bit-to-pixel mapping of R9 for the reference instance (U1; DESIGN CHOICE, log entry 2). -/
opaque Config.openPixelOn : Bool
opaque Config.openColOfBit : Vector (Fin 8) 8

/-- FREE VALUE: the number of the first poll that finds byte number `n` of the stream (R137, U15; DESIGN CHOICE, log
entry 3). Being a natural number it carries the fairness of R137: an available byte is delivered after finitely many
polls. -/
opaque Config.arrival : Nat → Nat

/-- FREE VALUE: byte number `n` of an infinite stream, past its listed beginning (R39: "finite or
infinite, not known in advance"; DESIGN CHOICE, log entry 3). -/
opaque Config.hostByte : Nat → Byte

/-- The reference configuration: `M = 4` (R6), a chain of 4 chips, every open parameter open. -/
def Config.reference : Config where
  lastModule := 3
  chainLength := 4
  regTest := Config.openRegTest
  regDecode := Config.openRegDecode
  regScanLimit := Config.openRegScanLimit
  regShutdown := Config.openRegShutdown
  regIntensity := Config.openRegIntensity
  valTestOff := Config.openValTestOff
  valDecodeOff := Config.openValDecodeOff
  valShutdownNormal := Config.openValShutdownNormal
  valIntensity := Config.openValIntensity
  pixelOn := Config.openPixelOn
  colOfBit := Config.openColOfBit

end Sys2Proof
end

