-- ==== Sys2Proof/Syntax.lean ====
section
/-!
DEFINITION. The operations of spec/opcode_table.json as one inductive (spec/30_encoding.md R79, R80).
Format `CMD` (`RENDER`, `BCAST`) is what the environment presents to the block; format `CRC`
(`ROW1` to `ROW8`) is what goes over the display bus to the chain.
-/

namespace Sys2Proof

/-- One constructor per row of spec/opcode_table.json. -/
inductive Instr where
  /-- `RENDER` (R79, R90): no operand in the word; the frame buffer is implicit. -/
  | render
  /-- `BCAST reg, data` (R79, R115). -/
  | bcast (reg data : Byte)
  /-- `ROW1`: the pair `(1, data)` on the display bus (R80). -/
  | row1 (data : Byte)
  /-- `ROW2`: the pair `(2, data)` on the display bus (R80). -/
  | row2 (data : Byte)
  /-- `ROW3`: the pair `(3, data)` on the display bus (R80). -/
  | row3 (data : Byte)
  /-- `ROW4`: the pair `(4, data)` on the display bus (R80). -/
  | row4 (data : Byte)
  /-- `ROW5`: the pair `(5, data)` on the display bus (R80). -/
  | row5 (data : Byte)
  /-- `ROW6`: the pair `(6, data)` on the display bus (R80). -/
  | row6 (data : Byte)
  /-- `ROW7`: the pair `(7, data)` on the display bus (R80). -/
  | row7 (data : Byte)
  /-- `ROW8`: the pair `(8, data)` on the display bus (R80). -/
  | row8 (data : Byte)
deriving DecidableEq, Repr

/-- A Chip Register Command, the pair `(reg, data)` of format `CRC` (R72). -/
structure ChipCommand where
  reg : Byte
  data : Byte
deriving DecidableEq, Repr

/-- The three bus events of R10. -/
inductive BusEvent where
  /-- `SA`: chain-select asserted. -/
  | sa
  /-- `W(reg, data)`: one pair written. -/
  | w (pair : ChipCommand)
  /-- `SD`: chain-select deasserted. -/
  | sd
deriving DecidableEq, Repr

/-- One line of a program of the environment (R86). `LOOP … END` is the field `loopBody` of the
state; the pseudo-instructions of R87 are lists of these lines. -/
inductive EnvLine where
  /-- A line `RENDER` or `BCAST reg, data`: present this command word and wait for `done`. -/
  | command (word : CmdWord)
  /-- A line `ACCUMULATE`: run the Frame Assembler until one frame is complete. -/
  | accumulate
deriving DecidableEq, Repr

end Sys2Proof
end

