-- ==== Sys2Proof/WellFormed.lean ====
section
/-!
DEFINITION. What the spec asks of an instruction and of a configuration before it is admitted
(spec/30_encoding.md R82; spec/41_broadcast.md R121; spec/60_exceptions.md R160;
spec/93_implementation_defined.md U6).
-/

namespace Sys2Proof

/-- Every instruction is well formed: R82, "Format `CMD` has no illegal and no reserved encoding: both
values of `opc` are defined and every value of `reg` and `data` is accepted"; and every data byte
of a row command is legal (R84). The operand types already bound every field. -/
def Instr.wellFormed : Instr → Bool
  | .render => true
  | .bcast _ _ => true
  | .row1 _ => true
  | .row2 _ => true
  | .row3 _ => true
  | .row4 _ => true
  | .row5 _ => true
  | .row6 _ => true
  | .row7 _ => true
  | .row8 _ => true

/-- The five initialisation registers, in the order of the document's list (R87). -/
def Config.initRegs (c : Config) : List Byte :=
  [c.regTest, c.regDecode, c.regScanLimit, c.regShutdown, c.regIntensity]

/-- The register number selects a row register, `1..8` (R53). -/
def isRowReg (reg : Byte) : Bool := decide (1 ≤ reg.toNat) && decide (reg.toNat ≤ 8)

/-- R121: the five initialisation register numbers are pairwise distinct. -/
def Config.regsDistinct (c : Config) : Bool := decide c.initRegs.Nodup

/-- R121: none of the five lies in `1..8`. -/
def Config.regsOutsideRows (c : Config) : Bool := c.initRegs.all fun a => !isRowReg a

/-- R160: `COL_OF_BIT` is a bijection on `0..7` (eight distinct columns). -/
def Config.columnsDistinct (c : Config) : Bool := decide c.colOfBit.toList.Nodup

/-- The chain has exactly `M` chips (R182). -/
def Config.chainFits (c : Config) : Bool := decide (c.chainLength = c.modules)

/-- The premise `WellFormedConfig` of R194: the five numbers are distinct and outside `1..8`. -/
def Config.wellFormed (c : Config) : Bool := c.regsDistinct && c.regsOutsideRows

/-- U6: the register number of a `BCAST` is one the document names, by number (`1..8`) or by function (the
five of R81). The block emits every `BCAST` (R120 (b)); this says for which of them the effect on a
chip has a meaning in the document. -/
def Instr.namesRegister (c : Config) : Instr → Bool
  | .bcast reg _ => isRowReg reg || c.initRegs.contains reg
  | _ => true

end Sys2Proof
end

