-- ==== Sys2Proof/Decode.lean ====
section
/-!
DEFINITION. Decoder and encoder of the formats `CMD` and `CRC` (spec/30_encoding.md R70 to R73, R79 to R83).

The two formats live on two different wires, the 17-bit command port and the display bus, so a
reader always knows which one it holds (DESIGN CHOICE, log entry 4); `Format` names it.
-/

namespace Sys2Proof

/-- The two formats that carry an operation of spec/opcode_table.json (R70). -/
inductive Format where
  /-- Format `CMD`, 17 bits (R73). -/
  | cmd
  /-- Format `CRC`, 16 bits (R72). -/
  | crc
deriving DecidableEq, Repr

/-- Why a string of bytes is no operation. -/
inductive DecodeError where
  /-- Fewer bytes than the format has. -/
  | truncated
  /-- A command word has 17 bits: bits 23..17 of its three bytes must be zero. -/
  | strayBits
  /-- A pair whose register number is not `1..8` has no row in spec/opcode_table.json (R80, R81). -/
  | unnamedRegister (reg : Byte)
deriving DecidableEq, Repr

/-- R73, R82: bit 16 is `opc`; `RENDER` ignores the low 16 bits; no word is illegal. -/
def decodeCmd (w : CmdWord) : Instr :=
  if w.getLsbD 16 then .bcast (w.extractLsb' 8 8) (w.extractLsb' 0 8) else .render

/-- R80: a pair with register number `n` in `1..8` is `ROWn`. -/
def decodePair (p : ChipCommand) : Except DecodeError Instr :=
  match p.reg.toNat with
  | 1 => .ok (.row1 p.data)
  | 2 => .ok (.row2 p.data)
  | 3 => .ok (.row3 p.data)
  | 4 => .ok (.row4 p.data)
  | 5 => .ok (.row5 p.data)
  | 6 => .ok (.row6 p.data)
  | 7 => .ok (.row7 p.data)
  | 8 => .ok (.row8 p.data)
  | _ => .error (.unnamedRegister p.reg)

/-- R72: the fields of a pair word, `reg` in bits 15..8 and `data` in bits 7..0. -/
def pairOfWord (w : PairWord) : ChipCommand := ⟨w.extractLsb' 8 8, w.extractLsb' 0 8⟩

/-- Decoding of any bytes. A pair is its register byte and then its data byte (R56); a command word is
its bytes from bits 7..0 upward, the third holding `opc` in its bit 0 (DESIGN CHOICE, log entry 4: the document gives
the 17-bit port no byte order). -/
def decode : Format → List Byte → Except DecodeError (Instr × List Byte)
  | .crc, reg :: data :: rest =>
      match decodePair ⟨reg, data⟩ with
      | .ok i => .ok (i, rest)
      | .error e => .error e
  | .cmd, b0 :: b1 :: b2 :: rest =>
      if b2.toNat < 2 then .ok (decodeCmd (b2.setWidth 1 ++ b1 ++ b0), rest) else .error .strayBits
  | _, _ => .error .truncated

/-- A word of either format. -/
inductive InstrWord where
  | cmd (w : CmdWord)
  | crc (w : PairWord)
deriving DecidableEq, Repr

/-- The word of a pair, `{reg[7:0], data[7:0]}` (R56, R72). -/
def wordOfPair (p : ChipCommand) : PairWord := p.reg ++ p.data

/-- The canonical `RENDER` word `0x00000` (R82). -/
def renderWord : CmdWord := 0#17

/-- The word of `BCAST reg, data`, `0x10000 | reg << 8 | data` (R86). -/
def bcastWord (reg data : Byte) : CmdWord := 1#1 ++ reg ++ data

/-- The encoder, from the tables of R73, R79 and R80. -/
def encode : Instr → InstrWord
  | .render => .cmd renderWord
  | .bcast reg data => .cmd (bcastWord reg data)
  | .row1 data => .crc (wordOfPair ⟨1#8, data⟩)
  | .row2 data => .crc (wordOfPair ⟨2#8, data⟩)
  | .row3 data => .crc (wordOfPair ⟨3#8, data⟩)
  | .row4 data => .crc (wordOfPair ⟨4#8, data⟩)
  | .row5 data => .crc (wordOfPair ⟨5#8, data⟩)
  | .row6 data => .crc (wordOfPair ⟨6#8, data⟩)
  | .row7 data => .crc (wordOfPair ⟨7#8, data⟩)
  | .row8 data => .crc (wordOfPair ⟨8#8, data⟩)

/-- The format a word belongs to. -/
def InstrWord.format : InstrWord → Format
  | .cmd _ => .cmd
  | .crc _ => .crc

/-- The bytes of a word, in the order `decode` reads them. -/
def InstrWord.bytes : InstrWord → List Byte
  | .cmd w => [w.extractLsb' 0 8, w.extractLsb' 8 8, (w.extractLsb' 16 1).setWidth 8]
  | .crc w => [w.extractLsb' 8 8, w.extractLsb' 0 8]

/-- A word as the number spec/opcode_table.json numbers its bits by. -/
def InstrWord.toNat : InstrWord → Nat
  | .cmd w => w.toNat
  | .crc w => w.toNat

/-- One row of spec/opcode_table.json. -/
structure OpcodeRow where
  mnemonic : String
  format : Format
  mask : Nat
  pattern : Nat
deriving DecidableEq, Repr

/-- spec/opcode_table.json (R79, R80). -/
def opcodeTable : List OpcodeRow :=
  [⟨"RENDER", .cmd, 0x10000, 0x00000⟩, ⟨"BCAST", .cmd, 0x10000, 0x10000⟩] ++
  [⟨"ROW1", .crc, 0xFF00, 0x0100⟩, ⟨"ROW2", .crc, 0xFF00, 0x0200⟩,
   ⟨"ROW3", .crc, 0xFF00, 0x0300⟩, ⟨"ROW4", .crc, 0xFF00, 0x0400⟩] ++
  [⟨"ROW5", .crc, 0xFF00, 0x0500⟩, ⟨"ROW6", .crc, 0xFF00, 0x0600⟩,
   ⟨"ROW7", .crc, 0xFF00, 0x0700⟩, ⟨"ROW8", .crc, 0xFF00, 0x0800⟩]

/-- The row of the table an instruction belongs to. -/
def Instr.mnemonic : Instr → String
  | .render => "RENDER"
  | .bcast _ _ => "BCAST"
  | .row1 _ => "ROW1"
  | .row2 _ => "ROW2"
  | .row3 _ => "ROW3"
  | .row4 _ => "ROW4"
  | .row5 _ => "ROW5"
  | .row6 _ => "ROW6"
  | .row7 _ => "ROW7"
  | .row8 _ => "ROW8"

/-- A word of the row's format has the row's fixed bits. -/
def OpcodeRow.fits (row : OpcodeRow) (w : InstrWord) : Bool :=
  decide (row.format = w.format) && decide (w.toNat &&& row.mask = row.pattern)

/-- The instruction read from a word numbered as spec/opcode_table.json numbers it. The table gives a
`CRC` row 16 bits and a `CMD` row 17 (24 in whole bytes), so the width tells the format. -/
def decodeTableWord (nbits w : Nat) : Option Instr :=
  let b0 := BitVec.ofNat 8 w
  let b1 := BitVec.ofNat 8 (w / 256)
  let b2 := BitVec.ofNat 8 (w / 65536)
  let answer : Except DecodeError (Instr × List Byte) :=
    if nbits ≤ 16 then
      (if w < 65536 then decode .crc [b1, b0] else .error .strayBits)
    else
      (if w < 16777216 then decode .cmd [b0, b1, b2] else .error .strayBits)
  match answer with
  | .ok (i, _) => some i
  | .error _ => none

end Sys2Proof
end

