-- ==== Sys2Proof/Machine/Program.lean ====
section
/-!
DEFINITION. The environment's program: the pseudo-instructions of spec/30_encoding.md R87, the initialisation pairs of
spec/41_broadcast.md R121, and the boot order of spec/70_reset_and_hazards.md R174.
-/

namespace Sys2Proof.Machine

/-- The data byte of the scan limit, "scan-limit = 7 (8 rows)" (R9). -/
def valScanLimit : Byte := 7#8

/-- The five pairs of the initialisation, in the order of the document's list (R87, R121). -/
def initPairs (cfg : Config) : List ChipCommand :=
  [⟨cfg.regTest, cfg.valTestOff⟩, ⟨cfg.regDecode, cfg.valDecodeOff⟩,
   ⟨cfg.regScanLimit, valScanLimit⟩, ⟨cfg.regShutdown, cfg.valShutdownNormal⟩,
   ⟨cfg.regIntensity, cfg.valIntensity⟩]

/-- The line `BCAST reg, data` (R86). -/
def bcastLine (p : ChipCommand) : EnvLine := .command (bcastWord p.reg p.data)

/-- The line `RENDER` (R86). -/
def renderLine : EnvLine := .command renderWord

/-- The pseudo-instruction `INIT` (R87), step (4) of the boot order (R174). -/
def initLines (cfg : Config) : List EnvLine := (initPairs cfg).map bcastLine

/-- The pseudo-instruction `CLEAR` (R87): `BCAST 1, 0x00` to `BCAST 8, 0x00`. -/
def clearLines : List EnvLine :=
  [1#8, 2#8, 3#8, 4#8, 5#8, 6#8, 7#8, 8#8].map fun n => bcastLine ⟨n, 0#8⟩

/-- The body of `FRAMELOOP`, `LOOP; ACCUMULATE; RENDER; END` (R87, R134), step (5) of the boot order (R174). -/
def frameLoopBody : List EnvLine := [.accumulate, renderLine]

end Sys2Proof.Machine
end

