-- ==== Sys2Proof/Machine/State.lean ====
section
/-!
DEFINITION. The machine's state (spec/10_state.md R20), the reasons a step stops, and the state after
reset (R42).
-/

namespace Sys2Proof.Machine

/-- The operation in progress (R23: 1 bit, `RENDER` = 0, `BCAST` = 1). -/
inductive Op where
  | render
  | bcast
deriving DecidableEq, Repr

/-- The sticky fault reasons of R145, values of the state field `fault` (R34). -/
inductive FaultReason where
  /-- Code 1: `fb_we = 1` in a state with `busy = 1`; records `fb_waddr`. -/
  | fbWriteWhileBusy (addr : Nat)
  /-- Code 2: an agent other than `MR` touched the bus or the chain-select line while `busy = 1`. -/
  | busTouchedByOther
  /-- Code 3: the chain was instantiated with a number of chips other than `M`. -/
  | chainLengthMismatch
deriving DecidableEq, Repr

/-- One display-driver chip: its shift stage `sh[c]` (R37) and its registers `creg[c]` (R36). -/
structure Chip where
  /-- The pair in the shift stage, `none` before the first one. -/
  sh : Option ChipCommand
  /-- Registers latched since reset, by number, strictly rising; a number not listed holds `none`. -/
  regs : List Host.Cell
deriving DecidableEq, Repr

/-- The byte source `HOST` (R39, R137). -/
structure ByteSource where
  /-- The beginning of `stream`, as far as it is listed. -/
  stream : List Byte
  /-- Whether the stream goes on for ever past `stream`, with free bytes (`Config.hostByte`). -/
  endless : Bool
  /-- How many bytes `FA` has taken. -/
  consumed : Nat
  /-- For the next bytes in turn, the number of the first poll that finds the byte, as far as the environment fixes
  it; past the end of this list that number is free (`Config.arrival`). -/
  arrivals : List Nat
  /-- The number of the next poll, whatever the polls before it answered. It says which argument of the step relation
  (R20, "the answers of the byte source") the next poll takes: the model's own index into the free value (DESIGN
  CHOICE, log entry 3). -/
  polls : Nat
deriving DecidableEq, Repr

/-- Who presents a command (R43 (g), R193). -/
inductive Issuer where
  /-- The Frame Assembler, by the hand-off of R133. -/
  | assembler
  /-- The boot code and any other presenter. -/
  | other
deriving DecidableEq, Repr

/-- The ports `fb_we`, `fb_waddr`, `fb_wdata` when they are driven (R41). The port `fb_waddr` carries the low `FB_AW`
bits of `addr` (`fbWaddr`). -/
structure FbWrite where
  addr : Nat
  data : Byte
deriving DecidableEq, Repr

/-- The whole machine (R20): the block `MR`, the frame buffer, the observation, the Frame Assembler,
the byte source, the chain, and the inputs that the environment holds at the ports (R41, R193). -/
structure State where
  /-- The parameters of this instance; no step changes them (DESIGN CHOICE, log entry 1). -/
  cfg : Config
  /-- `FB`: canonical list of cells, an unlisted address of `0 .. 8*M-1` reads as `0x00` (R21, R42). -/
  fb : List Host.Cell
  /-- `busy` (R27). -/
  busy : Bool
  /-- `op` (R23). -/
  op : Op
  /-- `r`, 3 bits (R23). -/
  r : BitVec 3
  /-- `j`, `0..M` (R23; DEDUCED, log entry 5 on its width). -/
  j : Nat
  /-- `breg` (R23). -/
  breg : Byte
  /-- `bdata` (R23). -/
  bdata : Byte
  /-- `sel`, the logical level of the chain-select line (R28). -/
  sel : Bool
  /-- `fault`, sticky (R34). -/
  fault : Option FaultReason
  /-- `T`, the trace, oldest event first (R32). -/
  trace : List BusEvent
  /-- `configured`, ghost (R31). -/
  configured : Bool
  /-- `FA`'s `idx` (R38; DEDUCED, log entry 5 on its width). -/
  idx : Nat
  /-- `FA`'s `waiting` (R38). -/
  waiting : Bool
  /-- `HOST`'s `stream` and `consumed` (R39). -/
  source : ByteSource
  /-- `CHAIN`: `sh[c]` and `creg[c]`, `c = 0` the chip nearest the block (R153, R154). -/
  chips : List Chip
  /-- The ports `cmd_valid` and `cmd_word`: `none` is `cmd_valid = 0` (R41). -/
  cmd : Option CmdWord
  /-- Ghost: who presents the command at the port (R43 (g); DESIGN CHOICE, log entry 18). No step reads it but to hand
  it on. -/
  cmdIssuer : Issuer
  /-- Ghost: who issued the operation in progress (R43 (g); DESIGN CHOICE, log entry 18). -/
  opIssuer : Issuer
  /-- A write that an agent drives on the frame buffer's write port out of turn: against a busy block it is fault 1 of
  R145, and it has no move in an idle state (R193; DESIGN CHOICE, log entry 7). `FA`'s own writes are not held here,
  they are its step `POLL_BYTE`. -/
  fbWrite : Option FbWrite
  /-- A bus event that an agent other than `MR` would emit: against a busy block it is fault 2 of R145, and it has no
  move in an idle state (R101, R193; DESIGN CHOICE, log entry 7). -/
  busDrive : Option BusEvent
  /-- The lines the environment's program has still to run (R86; DEDUCED, log entry 8). -/
  prog : List EnvLine
  /-- The body of the program's `LOOP … END`, taken up when `prog` is empty (R86; DEDUCED, log entry 8). -/
  loopBody : List EnvLine
deriving DecidableEq, Repr

/-- Why the machine takes no step. -/
inductive Fault where
  /-- Raised by every step and every operation of a machine whose `fault` is set: R34, R149, "a faulted
  state enables no step of any agent". Safe. -/
  | halted (reason : FaultReason)
  /-- Raised by a step of a state in which no agent's guard holds: `busy = 1`, `sel = 1` and `j > M`, or
  `waiting = 1` with neither an operation in progress nor a command presented. No state that meets
  `Safety.Inv` is such (R25, R43). Safe. -/
  | noStepEnabled
deriving DecidableEq, Repr

/-- Why a step gives an instruction no meaning. -/
inductive Refusal where
  /-- An instruction without a meaning, by its mnemonic; none is left. Safe. -/
  | notModelled (mnemonic : String)
deriving DecidableEq, Repr

/-- A chip at power-on: nothing known of it (R42, R172). -/
def Chip.blank : Chip := ⟨none, []⟩

/-- A byte source of which nothing has been taken and nothing is listed (R42: `consumed` 0; DESIGN CHOICE, log entry 6
for the rest). -/
def ByteSource.silent : ByteSource := ⟨[], false, 0, [], 0⟩

/-- The machine of an instance `cfg` right after reset (R42, R170 to R174). The configuration check of
fault 3 is made here, once (R145). The environment has the boot sequence before it, `INIT` and then the main loop
(R173, R174: the model "starts at (4) from the reset state"; DEDUCED, log entry 6). -/
def State.resetWith (cfg : Config) : State where
  cfg := cfg
  fb := []
  busy := false
  op := .render
  r := 0
  j := 0
  breg := 0
  bdata := 0
  sel := false
  fault := if cfg.chainLength = cfg.modules then none else some .chainLengthMismatch
  trace := []
  configured := false
  idx := 0
  waiting := false
  source := .silent
  chips := List.replicate cfg.chainLength .blank
  cmd := none
  cmdIssuer := .other
  opIssuer := .other
  fbWrite := none
  busDrive := none
  prog := initLines cfg
  loopBody := frameLoopBody

/-- The machine right after reset, of the reference configuration `M = 4` (R6, R42). -/
def State.reset : State := State.resetWith Config.reference

end Sys2Proof.Machine
end

