-- ==== Sys2Proof/Machine/Memory.lean ====
section
/-!
DEFINITION. The two byte memories: the frame buffer (spec/20_memory.md R50 (a), R51, R59) and a chip's
register file (R50 (b), R53), both lists of cells in one canonical form.
-/

namespace Sys2Proof.Machine

/-- The byte listed at an address, if one is. -/
def cellAt : List Host.Cell → Nat → Option Byte
  | [], _ => none
  | (b, v) :: rest, a => if a = b then some v else cellAt rest a

/-- List the byte `v` at `a`, in the place of any byte listed there. -/
def putCell (a : Nat) (v : Byte) : List Host.Cell → List Host.Cell
  | [] => [(a, v)]
  | (b, w) :: rest =>
      if a < b then (a, v) :: (b, w) :: rest
      else if a = b then (a, v) :: rest
      else (b, w) :: putCell a v rest

/-- List nothing at `a`. -/
def dropCell (a : Nat) : List Host.Cell → List Host.Cell
  | [] => []
  | (b, w) :: rest => if a = b then dropCell a rest else (b, w) :: dropCell a rest

/-- The addresses of a list of cells are strictly rising. -/
abbrev Rising (m : List Host.Cell) : Prop := (m.map Prod.fst).Pairwise (· < ·)

/-- `FB[a]` (R12): an address nothing has been written to holds `0x00` (R22: "zero-initialized"). -/
def Memory.read (fb : List Host.Cell) (a : Nat) : Byte := (cellAt fb a).getD 0

/-- `FB[a] <- v` (R12), keeping the canonical form. -/
def Memory.write (fb : List Host.Cell) (a : Nat) (v : Byte) : List Host.Cell :=
  if v = 0 then dropCell a fb else putCell a v fb

/-- The canonical form of the frame buffer: rising addresses, and no cell that holds what an unlisted
address reads as. -/
abbrev Memory.wf (fb : List Host.Cell) : Prop := Rising fb ∧ ∀ c ∈ fb, c.2 ≠ 0

/-- Every listed address exists, `0 .. 8*M-1` (R51). -/
abbrev Memory.within (cfg : Config) (fb : List Host.Cell) : Prop := ∀ c ∈ fb, c.1 < cfg.frameBytes

/-- `creg[c][a]` (R36): `none` if nothing has been latched into register `a` since reset. -/
def Chip.creg (c : Chip) (a : Byte) : Option Byte := cellAt c.regs a.toNat

/-- Write register `a` of a chip. -/
def Chip.setReg (c : Chip) (a v : Byte) : Chip := { c with regs := putCell a.toNat v c.regs }

/-- The canonical form of a chip's register file: rising register numbers, each a byte. -/
abbrev Chip.wf (c : Chip) : Prop := Rising c.regs ∧ ∀ x ∈ c.regs, x.1 < 256

end Sys2Proof.Machine
end

