-- ==== Sys2Proof/Machine/Operands.lean ====
section
/-!
DEFINITION. Operand assembly (spec/30_encoding.md R74 to R78).
-/

namespace Sys2Proof.Machine

/-- R74: the register number of row `r`, `zext_8(r) + 1`. -/
def rowReg (r : BitVec 3) : Byte := r.setWidth 8 + 1

/-- R75: the module whose byte is sent in slot `j`. -/
def slotModule (cfg : Config) (j : Nat) : Nat := cfg.modules - 1 - j

/-- R51, R76: the frame-buffer address of row `r` of module `k`. -/
def frameAddr (k : Nat) (r : BitVec 3) : Nat := 8 * k + r.toNat

/-- R76: the frame-buffer address read in slot `j` of row `r`. -/
def slotAddr (cfg : Config) (r : BitVec 3) (j : Nat) : Nat := frameAddr (slotModule cfg j) r

/-- R74, R77, R94: the pair of slot `j` of row `r`, the byte unchanged. -/
def rowPair (cfg : Config) (fb : List Host.Cell) (r : BitVec 3) (j : Nat) : ChipCommand :=
  ⟨rowReg r, Memory.read fb (slotAddr cfg r j)⟩

/-- The pair that the slot `j` of the operation in progress carries: R94 for `RENDER`, R117 for `BCAST`. -/
def slotPair (s : State) : ChipCommand :=
  match s.op with
  | .render => rowPair s.cfg s.fb s.r s.j
  | .bcast => ⟨s.breg, s.bdata⟩

/-- A window is open and a pair is still to come: the guard of `SHIFT_ROW` and `SHIFT_BCAST` less
`fault = none` (R94, R117). -/
def slotOpen (s : State) : Bool := s.busy && s.sel && decide (s.j < s.cfg.modules)

end Sys2Proof.Machine
end

