-- ==== Sys2Proof/Machine/Flags.lean ====
section
/-!
DEFINITION. The flags and status outputs (spec/10_state.md R27 to R33), the ports of a step (R41), the ghost flag
`configured` (spec/41_broadcast.md R121, R122) and the fault conditions of spec/60_exceptions.md R145.
-/

namespace Sys2Proof.Machine

/-- R30: `cmd_ready = (busy = 0 and fault = none)`. -/
def cmdReady (s : State) : Bool := !s.busy && s.fault.isNone

/-- The transaction in progress is the last of its operation: every `BCAST`'s, and row 7 of a `RENDER`
(R95, R117). -/
def lastTransaction (s : State) : Bool :=
  match s.op with
  | .render => s.r == 7#3
  | .bcast => true

/-- The address that a held write puts on the port `fb_waddr`, which is `FB_AW` bits wide (R9, R41). -/
def fbWaddr (cfg : Config) (w : FbWrite) : Nat := w.addr % 2 ^ cfg.fbAddrWidth

/-- R145, conditions 1 and 2: the contract that the held inputs break in this state, if any. Where
both are broken at once the lower code is recorded (DESIGN CHOICE, log entry 9). -/
def breach (s : State) : Option FaultReason :=
  if s.busy then
    match s.fbWrite with
    | some w => some (.fbWriteWhileBusy (fbWaddr s.cfg w))
    | none => if s.busDrive.isSome then some .busTouchedByOther else none
  else none

/-- No fault, recorded or raised in this step, stands over the step of the block (R147). -/
def undisturbed (s : State) : Bool := s.fault.isNone && (breach s).isNone

/-- The ports `tx_valid`, `tx_reg`, `tx_data` (R41): the pair written in this step, if one is. -/
def txPair (s : State) : Option ChipCommand :=
  if slotOpen s && undisturbed s then some (slotPair s) else none

/-- The port `fb_raddr` (R41): the address the block reads in this step; a `BCAST` does not drive it (R117). -/
def fbRaddr (s : State) : Option Nat :=
  match s.op with
  | .render => if slotOpen s && undisturbed s then some (slotAddr s.cfg s.r s.j) else none
  | .bcast => none

/-- The port `fb_rdata` (R41): `FB[fb_raddr]`, in the same step. -/
def fbRdata (s : State) : Option Byte := (fbRaddr s).map (Memory.read s.fb)

/-- R29: `done`, 1 in the step that sets `busy` from 1 to 0, that is in a `DEASSERT` (R95) of a last
transaction. It is an output of the step, not state (DEDUCED, log entry 12). -/
def doneOut (s : State) : Bool :=
  s.busy && s.sel && decide (s.j = s.cfg.modules) && lastTransaction s && undisturbed s

/-- R121: every chip holds the five initialisation values. -/
def initialised (cfg : Config) (chips : List Chip) : Bool :=
  chips.all fun c => (initPairs cfg).all fun p => c.creg p.reg == some p.data

/-- R122: a `BCAST` of another value to one of the five registers, which makes the model "clear
`configured`". -/
def spoilsInit (cfg : Config) (p : ChipCommand) : Bool :=
  (initPairs cfg).any fun q => q.reg == p.reg && q.data != p.data

/-- R122: `configured` after a completed `BCAST` of `p` has left the chain as `chips` (DEDUCED, log entry 10: the
completion of `INIT` is recognised by the predicate `initialised` that it establishes). -/
def configuredAfter (cfg : Config) (chips : List Chip) (p : ChipCommand) (was : Bool) : Bool :=
  initialised cfg chips || (was && !spoilsInit cfg p)

end Sys2Proof.Machine
end

