-- ==== Sys2Proof/Machine/Ops.lean ====
section
/-!
DEFINITION. The named operations of the machine: the reactions of the chain to a bus event
(spec/60_exceptions.md R155 to R157), `Emit` and `raise Fault` (spec/00_scope.md R12), and the steps of
the block (spec/40_render.md R91 to R95, spec/41_broadcast.md R116, R117).
-/

namespace Sys2Proof.Machine

/-- The outcome of a step of this machine. -/
abbrev Result := Host.Outcome State Fault Refusal

/-- R156: a shift by one pair; what the last chip held is lost. -/
def shiftIn : Option ChipCommand → List Chip → List Chip
  | _, [] => []
  | p, c :: cs => { c with sh := p } :: shiftIn c.sh cs

/-- R157, one chip: the pair in the shift stage, if there is one, is written to its register. -/
def Chip.latch (c : Chip) : Chip :=
  match c.sh with
  | some p => c.setReg p.reg p.data
  | none => c

/-- R155 to R157: what the chain does on a bus event. -/
def react : BusEvent → List Chip → List Chip
  | .sa, cs => cs
  | .w p, cs => shiftIn (some p) cs
  | .sd, cs => cs.map Chip.latch

/-- `Emit(e)` (R12): append the event to the trace and deliver it to the chain in the same step. -/
def emit (e : BusEvent) (s : State) : State :=
  { s with trace := s.trace ++ [e], chips := react e s.chips }

/-- `raise Fault(reason)` (R12, R145, R148): set the sticky fault; "nothing else is saved or changed". There
is no return from it (R149). The raising is a step with a next state, and only the steps after it stop
(DEDUCED, log entry 13). -/
def raiseFault (f : FaultReason) (s : State) : State := { s with fault := some f }

/-- Run an operation of the block: every guard of R91 to R95, R116 and R117 asks for `fault = none`, and a
faulted machine "enables no step of any agent" (R149). -/
def unlessFaulted (s : State) (k : Result) : Result :=
  match s.fault with
  | some f => .fault (.halted f)
  | none => k

/-- The presenter drops the command it had presented, and its operation is the one in progress (R133; DEDUCED, log
entry 17). -/
def takeCommand (s : State) : State :=
  { s with cmd := none, cmdIssuer := .other, opIssuer := s.cmdIssuer }

/-- Step `ACCEPT_RENDER` (R91). -/
def acceptRender (s : State) : State :=
  { takeCommand s with busy := true, op := .render, r := 0, j := 0 }

/-- Step `ACCEPT_BCAST` (R116). -/
def acceptBcast (reg data : Byte) (s : State) : State :=
  { takeCommand s with busy := true, op := .bcast, r := 0, j := 0, breg := reg, bdata := data }

/-- Step `ASSERT` (R93). -/
def assertSelect (s : State) : State := { emit .sa s with sel := true }

/-- The effect shared by the steps `SHIFT_ROW` (R94) and `SHIFT_BCAST` (R117): `Emit(W(p)); j <- j + 1`. -/
def shiftPair (p : ChipCommand) (s : State) : State := { emit (.w p) s with j := s.j + 1 }

/-- `configured` after the step `DEASSERT`: only the completion of a `BCAST` can write it (R31, R122). -/
def configuredAfterDeassert (s : State) : Bool :=
  match s.op with
  | .render => s.configured
  | .bcast => configuredAfter s.cfg (react .sd s.chips) ⟨s.breg, s.bdata⟩ s.configured

/-- Step `DEASSERT` (R95). On the last transaction `busy` falls, `done` is 1, and in that step `FA` drops
`waiting` (R133). -/
def deassertSelect (s : State) : State :=
  { emit .sd s with
    sel := false
    j := 0
    r := if lastTransaction s then 0 else s.r + 1
    busy := !lastTransaction s
    waiting := s.waiting && !lastTransaction s
    configured := configuredAfterDeassert s }

/-- An operation presented to the block: accepted if it is idle, held otherwise, which changes nothing
(R91, R180). -/
def present (accepted : State → State) (s : State) : Result :=
  unlessFaulted s (.next (if s.busy then s else accepted s))

/-- The event `W(p)` on the display bus as an instruction (DEDUCED, log entry 16). While the block is busy the bus is its
own: a held input that breaks a contract is the fault of R145 instead of the write (R94, R147), the pair is the one
the block writes in this step (R94, R117), or another agent has touched the bus (R145, fault 2). While it is idle
no rule gives the pair another effect than the chain's (R156, R158; DESIGN CHOICE, log entry 7). -/
def busWrite (p : ChipCommand) (s : State) : Result :=
  unlessFaulted s (.next
    (if s.busy then
      match breach s with
      | some f => raiseFault f s
      | none => if txPair s = some p then shiftPair p s else raiseFault .busTouchedByOther s
    else { s with chips := react (.w p) s.chips }))

/-- Put a command word where the block takes its next operation: on the command port of an idle
block (R41, R91; DESIGN CHOICE, log entry 11). -/
def placeCommand (w : CmdWord) (s : State) : State :=
  { s with busy := false, sel := false, cmd := some w, cmdIssuer := .other }

/-- Put a pair where the block writes it in its next step: the first slot of an open broadcast window
(R117; DESIGN CHOICE, log entry 11), with no input held that would fault the step first. -/
def placePair (p : ChipCommand) (s : State) : State :=
  { acceptBcast p.reg p.data s with
    sel := true
    fbWrite := none
    busDrive := none
    cmd := s.cmd
    cmdIssuer := s.cmdIssuer
    opIssuer := s.opIssuer }

end Sys2Proof.Machine
end

