-- ==== Sys2Proof/Machine/Commands.lean ====
section
/-!
DEFINITION. The meanings of the two operations of format `CMD` (spec/40_render.md R90, R91;
spec/41_broadcast.md R115, R116). What follows their acceptance, one bus event a step, is
Sys2Proof.Machine.blockStep.
-/

namespace Sys2Proof.Machine

/-- `RENDER` (R90, R91, R180). -/
def execRender (s : State) : Result := present acceptRender s

/-- `BCAST reg, data` (R115, R116, R180). -/
def execBcast (reg data : Byte) (s : State) : Result := present (acceptBcast reg data) s

end Sys2Proof.Machine
end

