-- ==== Sys2Proof/Machine/Rows.lean ====
section
/-!
DEFINITION. The meanings of the eight row commands of format `CRC` (spec/30_encoding.md R80): the pair
`(n, data)` on the display bus, which every chip passes on and which sets row `n-1` of the chip that
latches it (spec/60_exceptions.md R156, R157, R159; DEDUCED, log entry 16).
-/

namespace Sys2Proof.Machine

/-- `ROW1` (R80, R94, R117, R156). -/
def execRow1 (data : Byte) (s : State) : Result := busWrite ⟨1#8, data⟩ s

/-- `ROW2` (R80, R94, R117, R156). -/
def execRow2 (data : Byte) (s : State) : Result := busWrite ⟨2#8, data⟩ s

/-- `ROW3` (R80, R94, R117, R156). -/
def execRow3 (data : Byte) (s : State) : Result := busWrite ⟨3#8, data⟩ s

/-- `ROW4` (R80, R94, R117, R156). -/
def execRow4 (data : Byte) (s : State) : Result := busWrite ⟨4#8, data⟩ s

/-- `ROW5` (R80, R94, R117, R156). -/
def execRow5 (data : Byte) (s : State) : Result := busWrite ⟨5#8, data⟩ s

/-- `ROW6` (R80, R94, R117, R156). -/
def execRow6 (data : Byte) (s : State) : Result := busWrite ⟨6#8, data⟩ s

/-- `ROW7` (R80, R94, R117, R156). -/
def execRow7 (data : Byte) (s : State) : Result := busWrite ⟨7#8, data⟩ s

/-- `ROW8` (R80, R94, R117, R156). -/
def execRow8 (data : Byte) (s : State) : Result := busWrite ⟨8#8, data⟩ s

end Sys2Proof.Machine
end

