-- ==== Sys2Proof/Machine/Dispatch.lean ====
section
/-!
DEFINITION. One arm per constructor of Instr.
-/

namespace Sys2Proof.Machine

def exec (i : Instr) (s : State) : Host.Outcome State Fault Refusal :=
  match i with
  | .render => Sys2Proof.Machine.execRender s
  | .bcast reg data => Sys2Proof.Machine.execBcast reg data s
  | .row1 data => Sys2Proof.Machine.execRow1 data s
  | .row2 data => Sys2Proof.Machine.execRow2 data s
  | .row3 data => Sys2Proof.Machine.execRow3 data s
  | .row4 data => Sys2Proof.Machine.execRow4 data s
  | .row5 data => Sys2Proof.Machine.execRow5 data s
  | .row6 data => Sys2Proof.Machine.execRow6 data s
  | .row7 data => Sys2Proof.Machine.execRow7 data s
  | .row8 data => Sys2Proof.Machine.execRow8 data s

end Sys2Proof.Machine
end

