-- ==== Sys2Proof/Machine/FrameAssembler.lean ====
section
/-!
DEFINITION. The Frame Assembler and the byte source (spec/42_frame_assembler.md R125 to R139), and the
lines of the environment's program (spec/30_encoding.md R86).
-/

namespace Sys2Proof.Machine

/-- Byte number `n` of the stream, if the host ever sends it (R39, R54). -/
def ByteSource.byteAt (h : ByteSource) (n : Nat) : Option Byte :=
  match h.stream[n]? with
  | some b => some b
  | none => if h.endless then some (Config.hostByte n) else none

/-- The byte `stream[consumed]`, if the host ever sends one (R39). -/
def ByteSource.nextByte (h : ByteSource) : Option Byte := h.byteAt h.consumed

/-- The number of the first poll that finds the next byte: any number (R137; a free value, log entry 3). -/
def ByteSource.due (h : ByteSource) : Nat :=
  match h.arrivals with
  | n :: _ => n
  | [] => Config.arrival h.consumed

/-- `Poll(HOST)` (R137): `none` is `NoData`. -/
def ByteSource.poll (h : ByteSource) : Option Byte :=
  match h.nextByte with
  | some b => if h.polls < h.due then none else some b
  | none => none

/-- The byte source after a poll that answered "no data": no byte is consumed, nothing is counted but that a poll was
made (R127, R142). -/
def ByteSource.afterNoData (h : ByteSource) : ByteSource := { h with polls := h.polls + 1 }

/-- The byte source after a byte was taken (R39, R128). -/
def ByteSource.afterByte (h : ByteSource) : ByteSource :=
  { h with consumed := h.consumed + 1, arrivals := h.arrivals.tail, polls := h.polls + 1 }

/-- The lines still to run: the program, or the body of its `LOOP … END` again (R86). -/
def currentLines (s : State) : List EnvLine :=
  match s.prog with
  | [] => s.loopBody
  | line :: rest => line :: rest

/-- A line that presents `RENDER` (R82: any word with `opc` 0). -/
def isRenderLine : EnvLine → Bool
  | .command w => !w.getLsbD 16
  | .accumulate => false

/-- The lines without a `RENDER` line in front. -/
def passRender : List EnvLine → List EnvLine
  | line :: rest => if isRenderLine line then rest else line :: rest
  | [] => []

/-- The lines after a completed `ACCUMULATE`, `body` being what follows them. `FA` presents the `RENDER` of the frame in
the completing step itself (R133), and the line `RENDER` that follows, be it the first of the next pass of the `LOOP`,
is that one (R134; DEDUCED, log entry 8). -/
def afterFrame (body : List EnvLine) : List EnvLine → List EnvLine
  | .accumulate :: [] => passRender body
  | .accumulate :: line :: rest => passRender (line :: rest)
  | lines => lines

/-- The byte at hand completes the frame (R129). -/
def completesFrame (s : State) : Bool := !decide (s.idx + 1 < s.cfg.frameBytes)

/-- Step `POLL_NODATA` (R127). -/
def pollNoData (s : State) : State := { s with source := s.source.afterNoData }

/-- Step `POLL_BYTE` (R128), and in the completing step the hand-off (R129, R133). -/
def pollByte (b : Byte) (s : State) : State :=
  { s with
    fb := Memory.write s.fb s.idx b
    source := s.source.afterByte
    idx := if completesFrame s then 0 else s.idx + 1
    waiting := s.waiting || completesFrame s
    cmd := if completesFrame s then some renderWord else s.cmd
    cmdIssuer := if completesFrame s then .assembler else s.cmdIssuer
    prog := if completesFrame s then afterFrame s.loopBody (currentLines s) else s.prog }

/-- One poll of `ACCUMULATE` (R126): the byte, if there is one, goes to offset `idx`. No address is checked (R57; DEDUCED,
log entry 15). -/
def pollStep (s : State) : State :=
  match s.source.poll with
  | none => pollNoData s
  | some b => pollByte b s

/-- The boot code presents the command word of its next line (R86, R180). A `RENDER` line that no `ACCUMULATE` stands
before is not `FA`'s, and leaves `waiting` as it is (DESIGN CHOICE, log entry 18). -/
def presentLine (w : CmdWord) (rest : List EnvLine) (s : State) : State :=
  { s with cmd := some w, cmdIssuer := .other, prog := rest }

/-- The ports `cmd_valid` and `cmd_word` in this step (R41): the command held there, or the one that the boot code
presents from its next line to the idle block. -/
def cmdPort (s : State) : Option CmdWord :=
  match s.cmd with
  | some w => some w
  | none =>
    if s.busy || s.waiting then none
    else match currentLines s with
      | .command w :: _ => some w
      | _ => none

/-- `FA` polls in this step: `waiting = 0`, `busy = 0` (R127, R128), and no command is presented (DESIGN CHOICE, log
entry 9). -/
def assemblerPolls (s : State) : Bool :=
  s.fault.isNone && !s.busy && !s.waiting && (cmdPort s).isNone

/-- The ports `fb_we`, `fb_waddr`, `fb_wdata` in this step (R41): `FA`'s write of its step `POLL_BYTE` (R128), or the
write held against a busy block (R145). -/
def fbPort (s : State) : Option FbWrite :=
  if s.busy then s.fbWrite.map fun w => ⟨fbWaddr s.cfg w, w.data⟩
  else if assemblerPolls s then s.source.poll.map fun b => ⟨s.idx, b⟩
  else none

end Sys2Proof.Machine
end

