-- ==== Sys2Proof/Machine/Agents.lean ====
section
/-!
DEFINITION. Which agent moves (spec/60_exceptions.md R147, spec/42_frame_assembler.md R135), and its step:
the block (spec/10_state.md R25), the presenter of a command, the Frame Assembler.
-/

namespace Sys2Proof.Machine

/-- The pair `p` goes on the display bus: as the operation it decodes to, or, for a register number without
a row in the opcode table, by the same shared effect (R83, R120 (b)). -/
def writePair (p : ChipCommand) (s : State) : Result :=
  match decodePair p with
  | .ok i => exec i s
  | .error _ => busWrite p s

/-- The one enabled step of a busy block (R25): `ASSERT`, `SHIFT_ROW` or `SHIFT_BCAST`, `DEASSERT`. -/
def blockStep (s : State) : Result :=
  if s.sel = false then .next (assertSelect s)
  else if s.j < s.cfg.modules then writePair (slotPair s) s
  else if s.j = s.cfg.modules then .next (deassertSelect s)
  else .fault .noStepEnabled

/-- The environment's next line: its command is presented and accepted in this step (R86; DEDUCED, log entry 8), or
`ACCUMULATE` polls, with no line left as the main loop does (R134). -/
def envStep (s : State) : Result :=
  match currentLines s with
  | .command w :: rest => exec (decodeCmd w) (presentLine w rest s)
  | .accumulate :: _ => .next (pollStep s)
  | [] => .next (pollStep s)

/-- The step of a state in which the block is idle: the command presented to it is accepted; otherwise, while `FA` does
not wait, the environment moves (R133, R135; DESIGN CHOICE, log entry 9 for the order). No other agent has a move
(R193: what no fault is named for "has no move in the model"; DESIGN CHOICE, log entry 7). -/
def idleStep (s : State) : Result :=
  match s.cmd with
  | some w => exec (decodeCmd w) s
  | none => if s.waiting then .fault .noStepEnabled else envStep s

/-- R147: an existing fault over everything, then a new fault condition, then the one enabled step. -/
def advance (s : State) : Result :=
  unlessFaulted s
    (match breach s with
    | some f => .next (raiseFault f s)
    | none => if s.busy then blockStep s else idleStep s)

end Sys2Proof.Machine
end

