-- ==== Sys2Proof/Machine/Step.lean ====
section
/-!
DEFINITION. One step of the machine (spec/60_exceptions.md R147), and the placing of an instruction where
the next step runs it.
-/

namespace Sys2Proof.Machine

/-- One step of the whole machine. -/
def step (s : State) : Host.Outcome State Fault Refusal := advance s

/-- `s` with the instruction of spec/opcode_table.json whose bits are `w` placed where the next step
runs it: a word of format `CMD` on the command port of the idle block, a pair of format `CRC` in the first
slot of an open window (DESIGN CHOICE, log entry 11). -/
def State.withFetchWord (s : State) (nbits w : Nat) : State :=
  if nbits ≤ 16 then placePair (pairOfWord (BitVec.ofNat 16 w)) s
  else placeCommand (BitVec.ofNat 17 w) s

end Sys2Proof.Machine
end

