-- ==== Sys2Proof/Machine/Display.lean ====
section
/-!
DEFINITION. What the modules show (spec/60_exceptions.md R160): a function of the state, which no step reads.
-/

namespace Sys2Proof.Machine

/-- `creg[c][a]` (R36); `none` also where there is no chip `c`. -/
def creg (s : State) (c : Nat) (a : Byte) : Option Byte := (s.chips[c]?).bind fun chip => chip.creg a

/-- R160: the byte module `c` shows in row `r`; `none` where the spec gives what it shows no value. -/
def shownRow (s : State) (c : Nat) (r : BitVec 3) : Option Byte :=
  if s.configured then creg s c (rowReg r) else none

/-- R160: whether the pixel of bit `b` of row `r` of module `c` is lit. -/
def pixelOfBit (s : State) (c : Nat) (r : BitVec 3) (b : Fin 8) : Option Bool :=
  (shownRow s c r).map fun v => v.getLsbD b.val == s.cfg.pixelOn

/-- R160: the bit whose pixel stands at column `x`, by `COL_OF_BIT`. -/
def bitAtColumn (cfg : Config) (x : Fin 8) : Option (Fin 8) :=
  (List.finRange 8).find? fun b => cfg.colOfBit[b.val] == x

/-- R160: whether the pixel at column `x` of row `r` of module `c` is lit. -/
def pixelAt (s : State) (c : Nat) (r : BitVec 3) (x : Fin 8) : Option Bool :=
  (bitAtColumn s.cfg x).bind fun b => pixelOfBit s c r b

end Sys2Proof.Machine
end

