-- ==== Sys2Proof/Machine/Trace.lean ====
section
/-!
DEFINITION. Sequences of bus events: well-formed traces (spec/00_scope.md R13), the trace functions of the two
operations as the document's loops give them (spec/40_render.md R92, R97; spec/41_broadcast.md R118), and
what a chain does on a sequence of events (spec/60_exceptions.md R155 to R158). No step reads any of them.
-/

namespace Sys2Proof.Machine

/-- Where a trace stands after its last event (R13). -/
inductive TracePos where
  /-- Between transactions. -/
  | outside
  /-- Inside a transaction, after so many writes. -/
  | inside (writes : Nat)
  /-- Some event broke the form of R13. -/
  | broken
deriving DecidableEq, Repr

/-- R13, for a chain of `m`: `SA` and `SD` alternate, every write lies between an `SA` and the next `SD`, and
every transaction holds exactly `m` writes. -/
def scanEvent (m : Nat) : TracePos → BusEvent → TracePos
  | .outside, .sa => .inside 0
  | .inside n, .w _ => if n < m then .inside (n + 1) else .broken
  | .inside n, .sd => if n = m then .outside else .broken
  | _, _ => .broken

/-- The position of a whole trace. -/
def scanTrace (m : Nat) (t : List BusEvent) : TracePos := t.foldl (scanEvent m) .outside

/-- `row_txn(B, r)` (R97). -/
def rowTxn (cfg : Config) (fb : List Host.Cell) (r : Nat) : List BusEvent :=
  [.sa] ++
  (List.range cfg.modules).map (fun j =>
    .w ⟨BitVec.ofNat 8 (r + 1), Memory.read fb (8 * (cfg.modules - 1 - j) + r)⟩) ++
  [.sd]

/-- `render_trace(B)` (R97): the eight row transactions in ascending order. -/
def renderTrace (cfg : Config) (fb : List Host.Cell) : List BusEvent :=
  (List.range 8).flatMap (rowTxn cfg fb)

/-- `bcast_trace(reg, data)` (R118). -/
def bcastTrace (cfg : Config) (p : ChipCommand) : List BusEvent :=
  [.sa] ++ List.replicate cfg.modules (.w p) ++ [.sd]

/-- What a chain holds after a sequence of events, oldest first. -/
def reactAll (chips : List Chip) (t : List BusEvent) : List Chip :=
  t.foldl (fun cs e => react e cs) chips

end Sys2Proof.Machine
end

