-- ==== Sys2Proof/Safety.lean ====
section
/-!
DEFINITION. What counts as a safe run: the invariant of the machine (spec/10_state.md R43) and the named
premises of a claim (spec/70_reset_and_hazards.md R194).
-/

namespace Sys2Proof.Safety

open Sys2Proof.Machine

/-- R43, with the canonical form of the memories and the one-command discipline of R133. It speaks of
states with a recorded fault too: raising a fault changes nothing else. -/
structure Inv (s : State) : Prop where
  /-- R43 (a): `0 <= j <= M`; `r` is three bits wide. -/
  slot : s.j ≤ s.cfg.modules
  /-- R43 (b). -/
  idle : s.busy = false → s.sel = false ∧ s.r = 0#3 ∧ s.j = 0
  /-- R43 (c). -/
  closed : s.sel = false → s.j = 0
  /-- R43 (d). -/
  oneWindow : s.op = .bcast → s.busy = true → s.r = 0#3
  /-- R43 (e), (f), and R13: `T` is well formed with `M` writes in each transaction, it ends inside a
  transaction exactly when `sel = 1`, and then `j` counts the writes since its last `SA`. -/
  traceForm : scanTrace s.cfg.modules s.trace = if s.sel then .inside s.j else .outside
  /-- R43 (h). -/
  index : s.idx < s.cfg.frameBytes
  /-- R43 (g): `FA` waits whenever the operation in progress is its own. -/
  issuer : s.busy = true → s.opIssuer = .assembler → s.waiting = true
  /-- R133: a command that `FA` presents is the `RENDER` of its hand-off, to the idle block. -/
  presented : s.cmdIssuer = .assembler →
    s.busy = false ∧ s.waiting = true ∧ s.cmd = some renderWord
  /-- R133, R135: while `FA` waits, its `RENDER` is presented to the idle block or in progress. -/
  handOff : s.waiting = true →
    (s.busy = true ∧ s.op = .render ∧ s.opIssuer = .assembler) ∨
    (s.busy = false ∧ s.cmd = some renderWord ∧ s.cmdIssuer = .assembler)
  /-- R39: `FA` has taken no byte that was not there. -/
  taken : s.source.consumed ≤ s.source.stream.length ∨ s.source.endless = true
  /-- The canonical form of the frame buffer. -/
  memory : Memory.wf s.fb
  /-- R51: only the addresses `0 .. 8*M-1` are listed. -/
  memoryRange : Memory.within s.cfg s.fb
  /-- The canonical form of every chip's register file. -/
  registers : ∀ c ∈ s.chips, c.wf
  /-- R20, R153: the chain is the one the instance was built with. -/
  chain : s.chips.length = s.cfg.chainLength
  /-- R145, fault 3: a chain of another length than `M` is a recorded fault. -/
  chainFits : s.cfg.chainLength = s.cfg.modules ∨ s.fault = some .chainLengthMismatch

/-- `n` steps, stopping at the first fault or refusal. -/
def runFor : Nat → State → Result
  | 0, s => .next s
  | n + 1, s =>
    match step s with
    | .next t => runFor n t
    | .fault f => .fault f
    | .refused r => .refused r

/-- The block has just accepted an operation: its sequence position is the first one (R25, R91, R116). -/
def AtFirstPosition (s : State) : Prop :=
  s.fault = none ∧ s.busy = true ∧ s.sel = false ∧ s.r = 0#3 ∧ s.j = 0

/-- It is the Frame Assembler's turn (R127, R128: `waiting = 0`, `busy = 0`; R133, R134: no command is presented
and no line of the program comes first; DESIGN CHOICE, log entry 9). -/
def AssemblerTurn (s : State) : Prop :=
  s.fault = none ∧ s.busy = false ∧ s.waiting = false ∧ s.cmd = none ∧
    ∀ w rest, currentLines s ≠ .command w :: rest

/-- R194 `NoFault`. -/
def NoFault (s : State) : Prop := s.fault = none

/-- R194 `IdleAtLaunch`. -/
def IdleAtLaunch (s : State) : Prop :=
  s.busy = false ∧ s.sel = false ∧ s.r = 0#3 ∧ s.j = 0 ∧ s.waiting = false ∧ s.cmd = none

/-- R194 `ChainLength`. -/
def ChainLength (s : State) : Prop := s.chips.length = s.cfg.modules

/-- R194 `Configured`. -/
def Configured (s : State) : Prop := s.configured = true

/-- R194 `WellFormedConfig`. -/
def WellFormedConfig (s : State) : Prop := s.cfg.wellFormed = true

/-- R194 `PhaseDiscipline`: R135 is obeyed in the whole run from `s`, that is, in no state with `busy = 1` is the frame
buffer's write port driven ("else fault 1"). `FA`'s own step never does it; the held input is the only way to. -/
def PhaseDiscipline (s : State) : Prop :=
  ∀ n t, runFor n s = .next t → t.busy = true → t.fbWrite = none

/-- R179: in the whole run from `s`, no other agent touches the bus or the chain-select line in a state with `busy = 1`
(else fault 2). -/
def BusExclusive (s : State) : Prop :=
  ∀ n t, runFor n s = .next t → t.busy = true → t.busDrive = none

/-- The two premises on other agents, R178 and R179. -/
def Disciplined (s : State) : Prop := PhaseDiscipline s ∧ BusExclusive s

/-- R194 `ChannelLossless`: the byte source obeys R137 in the whole run from `s`. The stream stays the one it is in `s`; a
poll returns `NoData` or the next byte of it; and a step takes no byte, or the next one, which it stores at `idx`. So
nothing is lost, repeated or reordered on the way from the launch to any later frame. -/
def ChannelLossless (s : State) : Prop :=
  ∀ n t, runFor n s = .next t →
    t.source.stream = s.source.stream ∧ t.source.endless = s.source.endless ∧
    (t.source.poll = none ∨ t.source.poll = t.source.nextByte) ∧
    ∀ u, step t = .next u →
      u.source.consumed = t.source.consumed ∨
      (u.source.consumed = t.source.consumed + 1 ∧
        t.source.nextByte = some (Memory.read u.fb t.idx))

/-- R194 `Fair` (R137): wherever the run from `s` has come to, if there is a next byte, then after finitely many polls
one returns it. -/
def Fair (s : State) : Prop :=
  ∀ n t b, runFor n s = .next t → t.source.nextByte = some b →
    ∃ k, (Nat.repeat ByteSource.afterNoData k t.source).poll = some b

/-- R194 `BusReliable` (R144): wherever the run from `s` has come to, the chain is its reaction to all the events emitted
since, in their order and unchanged. -/
def BusReliable (s : State) : Prop :=
  ∀ n t, runFor n s = .next t →
    ∃ events, t.trace = s.trace ++ events ∧ t.chips = reactAll s.chips events

/-- R192: the run of a finite stream is over. -/
def RunOver (s : State) : Prop :=
  s.source.endless = false ∧ s.source.consumed = s.source.stream.length ∧ s.busy = false ∧
    s.waiting = false ∧ s.fault = none

/-- R54, R130: the next byte of the stream goes to the offset that its number gives. -/
def Positional (s : State) : Prop := s.idx = s.source.consumed % s.cfg.frameBytes

/-- R54, R130: what the frame buffer holds of the frame in progress, `FB[i]` for `i < idx`, are the last `idx` bytes taken
from the stream; and from the hand-off to `done` (R65, R129) all of it holds the last `8*M` bytes taken. -/
def Assembled (s : State) : Prop :=
  s.idx ≤ s.source.consumed ∧
  (∀ i, i < s.idx → s.source.byteAt (s.source.consumed - s.idx + i) = some (Memory.read s.fb i)) ∧
  (s.waiting = true →
    s.idx = 0 ∧ s.cfg.frameBytes ≤ s.source.consumed ∧
    ∀ i, i < s.cfg.frameBytes →
      s.source.byteAt (s.source.consumed - s.cfg.frameBytes + i) = some (Memory.read s.fb i))

end Sys2Proof.Safety
end

