-- ==== Sys2Proof/Certificates/Slice0/Obligations.lean ====
section
/-!
DEFINITION. The statements for the provers, from the numbered rules of spec/. OBLIGATIONS.json lists them.

A step of `MR` in the rules has the guard `fault = none` and is taken unless a new fault condition coincides with
it (spec/60_exceptions.md R147); the premise `Disciplined` says that none does in the run from the state.
-/

open Sys2Proof Sys2Proof.Machine Sys2Proof.Safety

/-! ## Encodings -/

/-- R73, R79, R80, R82: no bit of an operand is lost between the encoder and the decoder, whatever follows the
word. -/
def Obligations.DecodeOfEncode : Prop :=
  ∀ (i : Instr) (rest : List Byte),
    decode (encode i).format ((encode i).bytes ++ rest) = .ok (i, rest)

/-- R73, R79, R82: every command word decodes; bit 16 tells the two operations apart, `BCAST` takes its operands
from bits 15..8 and 7..0, `RENDER` ignores them; and a `BCAST` word is the encoding of what it decodes to. -/
def Obligations.CommandWordFields : Prop :=
  ∀ w : CmdWord,
    (w.getLsbD 16 = false → decodeCmd w = .render) ∧
    (w.getLsbD 16 = true →
      ∃ reg data : Byte, decodeCmd w = .bcast reg data ∧
        w.toNat = 65536 + 256 * reg.toNat + data.toNat ∧ encode (.bcast reg data) = .cmd w)

/-- R72, R80: a pair word is `reg * 256 + data`; with `reg = n` in `1..8` it is `ROWn data`, and with any other
register number it has no row in the opcode table (R81). -/
def Obligations.PairWordFields : Prop :=
  ∀ w : PairWord,
    w.toNat = 256 * (pairOfWord w).reg.toNat + (pairOfWord w).data.toNat ∧
    (∀ x ∈ [(1, Instr.row1), (2, Instr.row2), (3, Instr.row3), (4, Instr.row4),
        (5, Instr.row5), (6, Instr.row6), (7, Instr.row7), (8, Instr.row8)],
      w.toNat / 256 = x.1 →
        decodePair (pairOfWord w) = .ok (x.2 (BitVec.ofNat 8 w.toNat)) ∧
        encode (x.2 (BitVec.ofNat 8 w.toNat)) = .crc w) ∧
    (w.toNat / 256 = 0 ∨ 9 ≤ w.toNat / 256 →
      decodePair (pairOfWord w) = .error (.unnamedRegister (pairOfWord w).reg))

/-- R80, R82 and the words of spec/95_test_vectors.md DV15: a few words written out. -/
def Obligations.SampleWordsDecode : Prop :=
  decodeCmd 0x00000#17 = .render ∧ decodeCmd 0x0ABCD#17 = .render ∧
  decodeCmd 0x10100#17 = .bcast 1#8 0x00#8 ∧ decodeCmd 0x108FF#17 = .bcast 8#8 0xFF#8 ∧
  decodeCmd 0x1FFFF#17 = .bcast 255#8 255#8 ∧
  decodePair (pairOfWord 0x0801#16) = .ok (.row8 0x01#8) ∧
  decodePair (pairOfWord 0x01FF#16) = .ok (.row1 0xFF#8)

/-! ## Reset -/

/-- R171: the block and the frame buffer after reset, of every instance whose chain fits (with another chain the
fault of R145 is recorded instead of `fault = none`), and the block is ready (R173). -/
def Obligations.BlockResetValues : Prop :=
  ∀ cfg : Config, cfg.chainLength = cfg.modules →
    let s := State.resetWith cfg
    s.busy = false ∧ s.op = .render ∧ s.r = 0#3 ∧ s.j = 0 ∧ s.breg = 0x00#8 ∧ s.bdata = 0x00#8 ∧
    s.sel = false ∧ s.fault = none ∧ s.trace = [] ∧ doneOut s = false ∧ cmdReady s = true ∧
    (∀ a, a < cfg.frameBytes → Memory.read s.fb a = 0x00#8)

/-- R172: the environment after reset: the counters zero, nothing known of any chip, and a register that was never
written shows nothing. -/
def Obligations.EnvironmentResetValues : Prop :=
  ∀ cfg : Config,
    let s := State.resetWith cfg
    s.idx = 0 ∧ s.waiting = false ∧ s.source.consumed = 0 ∧ s.configured = false ∧
    s.chips.length = cfg.chainLength ∧
    (∀ c ∈ s.chips, c.sh = none ∧ ∀ a, c.creg a = none) ∧
    (∀ c r, shownRow s c r = none)

/-- R145 (fault 3), R182: the configuration check made at reset; a machine built with a chain of another length than
`M` takes no step. -/
def Obligations.WrongChainLengthFaultsAtReset : Prop :=
  ∀ cfg : Config,
    (cfg.chainLength ≠ cfg.modules →
      (State.resetWith cfg).fault = some .chainLengthMismatch ∧
      step (State.resetWith cfg) = .fault (.halted .chainLengthMismatch)) ∧
    (cfg.chainLength = cfg.modules → (State.resetWith cfg).fault = none)

/-- R42, R43: the invariant holds after reset, and so does the positional framing of R130, of the index and of what the
buffer holds. -/
def Obligations.InvHoldsAtReset : Prop :=
  (∀ cfg : Config, let s := State.resetWith cfg
    Inv s ∧ Positional s ∧ Assembled s) ∧ Inv State.reset

/-! ## Which step is taken -/

/-- R91, R116, R94, R117: when the word at the command port of the idle block decodes to an operation, and when the
pair that a busy block writes decodes to a row command, the step is that instruction's own meaning. The step adds
nothing around it. That a presented command comes before every other step of an idle machine is log entry 9, the
model's choice. -/
def Obligations.StepRunsTheDecodedInstruction : Prop :=
  (∀ (s : State) (w : CmdWord), s.fault = none → s.busy = false → s.cmd = some w →
    step s = exec (decodeCmd w) s) ∧
  (∀ (s : State) (i : Instr), s.fault = none → Disciplined s → s.busy = true → s.sel = true →
    s.j < s.cfg.modules → decodePair (slotPair s) = .ok i → step s = exec i s)

/-- The placing of an instruction (log entry 11, the model's own): from every state, the very next step runs exactly
the instruction that the decoder reads. -/
def Obligations.PlacedInstructionRuns : Prop :=
  ∀ (s : State) (nbits w : Nat) (i : Instr), decodeTableWord nbits w = some i →
    step (s.withFetchWord nbits w) = exec i (s.withFetchWord nbits w)

/-- R25, R43, R57, R147: a state that meets the invariant, without a fault, always has an enabled step: the machine never
stops by itself, whatever is held at its inputs. -/
def Obligations.SomeStepIsEnabled : Prop :=
  ∀ s : State, Inv s → s.fault = none → ∃ t, step s = .next t

/-- R43 (and R13, R39, R51, R133): every step keeps the invariant. -/
def Obligations.StepKeepsInv : Prop :=
  ∀ s t : State, Inv s → step s = .next t → Inv t

/-! ## The operations of the command port -/

/-- R91: `RENDER` presented to the idle block. The step is the acceptance, with no event and `sel` as it was; the low
16 bits of the word do not matter; presented to a busy block it is not accepted and stays presented. What becomes of
the command port of the idle block is Obligations.PresentedCommandIsHeld. -/
def Obligations.RenderIsAccepted : Prop :=
  (∀ s : State, s.fault = none → s.busy = false →
    ∃ t, exec .render s = .next t ∧
      t = { s with
        busy := true, op := .render, r := 0#3, j := 0
        cmd := t.cmd, cmdIssuer := t.cmdIssuer, opIssuer := t.opIssuer }) ∧
  (∀ (s : State) (w : CmdWord), s.fault = none → s.busy = false →
    s.cmd = some w → w.getLsbD 16 = false →
    ∃ t, step s = .next t ∧
      t = { s with
        busy := true, op := .render, r := 0#3, j := 0
        cmd := t.cmd, cmdIssuer := t.cmdIssuer, opIssuer := t.opIssuer }) ∧
  (∀ s : State, s.fault = none → s.busy = true → exec .render s = .next s) ∧
  (∀ s t : State, s.busy = true → step s = .next t → t.cmd = s.cmd) ∧
  (∃ t, step { State.reset with cmd := some 0x00000#17 } = .next t ∧
    t.busy = true ∧ t.r = 0#3 ∧ t.j = 0 ∧ t.sel = false ∧ t.trace = [])

/-- R116: `BCAST` presented to the idle block: the operands are latched, no event, `sel` as it was. -/
def Obligations.BcastIsAccepted : Prop :=
  (∀ (s : State) (reg data : Byte), s.fault = none → s.busy = false →
    ∃ t, exec (.bcast reg data) s = .next t ∧
      t = { s with
        busy := true, op := .bcast, r := 0#3, j := 0, breg := reg, bdata := data
        cmd := t.cmd, cmdIssuer := t.cmdIssuer, opIssuer := t.opIssuer }) ∧
  (∀ (s : State) (w : CmdWord), s.fault = none → s.busy = false →
    s.cmd = some w → w.getLsbD 16 = true →
    ∃ t, step s = .next t ∧
      t = { s with
        busy := true, op := .bcast, r := 0#3, j := 0
        breg := w.extractLsb' 8 8, bdata := w.extractLsb' 0 8
        cmd := t.cmd, cmdIssuer := t.cmdIssuer, opIssuer := t.opIssuer }) ∧
  (∀ s : State, s.fault = none → s.busy = false → s.cmd = some 0x10300#17 →
    ∃ t, step s = .next t ∧ t.busy = true ∧ t.op = .bcast ∧ t.breg = 0x03#8 ∧ t.bdata = 0x00#8)

/-- R30: the output `cmd_ready`, and an operation is accepted only in a step where it is 1 (and, by R91 and R116,
in every such step in which one is presented). -/
def Obligations.AcceptedOnlyWhenReady : Prop :=
  (∀ s : State, cmdReady s = true ↔ s.busy = false ∧ s.fault = none) ∧
  (∀ s t : State, step s = .next t → s.busy = false → t.busy = true →
    cmdReady s = true ∧ (cmdPort s).isSome = true) ∧
  (∀ s : State, cmdReady s = true → s.cmd.isSome = true →
    ∃ t, step s = .next t ∧ t.busy = true)

/-- R180: a command presented to a busy block is held: whichever operation it is, it has no effect, and every step of
the busy block leaves it presented. The step that accepts a command takes it from the port, and it is the step of the
idle block to which one is presented (log entries 17 and 9, the model's choices). -/
def Obligations.PresentedCommandIsHeld : Prop :=
  (∀ (s : State) (reg data : Byte), s.fault = none → s.busy = true →
    exec .render s = .next s ∧ exec (.bcast reg data) s = .next s) ∧
  (∀ s t : State, s.busy = true → step s = .next t → t.cmd = s.cmd) ∧
  (∀ s : State, s.fault = none → s.busy = false → s.cmd.isSome = true →
    ∃ t, step s = .next t ∧ t.busy = true ∧ t.cmd = none)

/-! ## The steps of the block -/

/-- R93 (and R155): `ASSERT`. -/
def Obligations.AssertStep : Prop :=
  ∀ s : State, s.fault = none → Disciplined s → s.busy = true → s.sel = false →
    step s = .next { s with sel := true, trace := s.trace ++ [.sa] }

/-- R94: `SHIFT_ROW` and its ports. The second clause is the fault of R145 that R94 and R147 put in the place of the step
when the frame buffer is written. That `fb_raddr` and the `tx` port are not driven in that step is log entry 12, and that
the address recorded is the low `FB_AW` bits of the held one is log entry 5, both the model's reading (DEDUCED). -/
def Obligations.ShiftRowStep : Prop :=
  ∀ s : State, s.fault = none → s.busy = true → s.op = .render → s.sel = true →
    s.j < s.cfg.modules →
    let addr := 8 * (s.cfg.modules - 1 - s.j) + s.r.toNat
    let p : ChipCommand := ⟨BitVec.ofNat 8 (s.r.toNat + 1), Memory.read s.fb addr⟩
    (Disciplined s →
      fbRaddr s = some addr ∧ fbRdata s = some (Memory.read s.fb addr) ∧ txPair s = some p ∧
      step s = .next { s with
        trace := s.trace ++ [.w p], chips := react (.w p) s.chips, j := s.j + 1 }) ∧
    (∀ w, s.fbWrite = some w →
      fbRaddr s = none ∧ txPair s = none ∧
      step s = .next { s with
        fault := some (.fbWriteWhileBusy (w.addr % 2 ^ s.cfg.fbAddrWidth)) })

/-- R117: `SHIFT_BCAST` and its ports, between the opening and the closing of the one transaction of a `BCAST`. -/
def Obligations.ShiftBcastStep : Prop :=
  ∀ s : State, s.fault = none → Disciplined s → s.busy = true → s.op = .bcast →
    (s.sel = false → step s = .next { s with sel := true, trace := s.trace ++ [.sa] }) ∧
    (s.sel = true → s.j < s.cfg.modules →
      fbRaddr s = none ∧ txPair s = some ⟨s.breg, s.bdata⟩ ∧
      step s = .next { s with
        trace := s.trace ++ [.w ⟨s.breg, s.bdata⟩]
        chips := react (.w ⟨s.breg, s.bdata⟩) s.chips
        j := s.j + 1 }) ∧
    (s.sel = true → s.j = s.cfg.modules →
      doneOut s = true ∧
      ∃ t, step s = .next t ∧ t.busy = false ∧ t.r = 0#3 ∧ t.j = 0 ∧ t.sel = false ∧
        t.trace = s.trace ++ [.sd])

/-- R95: `DEASSERT`. Beside what the rule writes, the chain latches (R157), and with `done` `FA` drops `waiting`
(R133); `configured` can change only with a `BCAST` (R122). -/
def Obligations.DeassertStep : Prop :=
  ∀ s : State, s.fault = none → Disciplined s → s.busy = true → s.sel = true →
    s.j = s.cfg.modules →
    (s.op = .render ∧ s.r.toNat < 7 →
      doneOut s = false ∧
      step s = .next { s with
        sel := false, trace := s.trace ++ [.sd], j := 0, r := s.r + 1#3
        chips := react .sd s.chips }) ∧
    (s.op = .render ∧ s.r.toNat = 7 →
      doneOut s = true ∧
      step s = .next { s with
        sel := false, trace := s.trace ++ [.sd], j := 0, r := 0#3, busy := false
        waiting := false, chips := react .sd s.chips }) ∧
    (s.op = .bcast →
      doneOut s = true ∧
      ∃ c : Bool, step s = .next { s with
        sel := false, trace := s.trace ++ [.sd], j := 0, r := 0#3, busy := false
        waiting := false, configured := c, chips := react .sd s.chips })

/-- R29: `done` is 1 in exactly the steps that set `busy` from 1 to 0. -/
def Obligations.DoneIsTheFallOfBusy : Prop :=
  ∀ s t : State, step s = .next t → (doneOut s = true ↔ s.busy = true ∧ t.busy = false)

/-- R10, R12, R154: a step emits at most one event, only while the block is busy, and the chain changes only by its
reaction to that event. -/
def Obligations.OneEventAtMost : Prop :=
  ∀ s t : State, step s = .next t →
    (t.trace = s.trace ∧ t.chips = s.chips) ∨
    (s.busy = true ∧ ∃ e, t.trace = s.trace ++ [e] ∧ t.chips = react e s.chips)

/-! ## The row commands -/

/-- R80, R94: `ROW1` to `ROW8` in the slot of a `RENDER` that carries them: the pair goes on the bus, every chip
passes on, the slot counter advances, and nothing else changes. That the row command as an instruction is that step of
the block is log entry 16, the model's reading. -/
def Obligations.RowCommandsInARenderSlot : Prop :=
  ∀ x ∈ [((1#8 : Byte), Instr.row1), (2#8, Instr.row2), (3#8, Instr.row3), (4#8, Instr.row4),
      (5#8, Instr.row5), (6#8, Instr.row6), (7#8, Instr.row7), (8#8, Instr.row8)],
    ∀ (s : State) (d : Byte), s.fault = none → Disciplined s → s.busy = true → s.op = .render →
      s.sel = true →
      s.j < s.cfg.modules → s.r.toNat + 1 = x.1.toNat →
      Memory.read s.fb (8 * (s.cfg.modules - 1 - s.j) + s.r.toNat) = d →
      exec (x.2 d) s = .next { s with
        trace := s.trace ++ [.w ⟨x.1, d⟩], chips := react (.w ⟨x.1, d⟩) s.chips, j := s.j + 1 }

/-- R80, R117, R120 (a): `ROW1` to `ROW8` in a slot of a `BCAST` of that row register. That the row command as an
instruction is that step of the block is log entry 16, the model's reading. -/
def Obligations.RowCommandsInABroadcastSlot : Prop :=
  ∀ x ∈ [((1#8 : Byte), Instr.row1), (2#8, Instr.row2), (3#8, Instr.row3), (4#8, Instr.row4),
      (5#8, Instr.row5), (6#8, Instr.row6), (7#8, Instr.row7), (8#8, Instr.row8)],
    ∀ (s : State) (d : Byte), s.fault = none → Disciplined s → s.busy = true → s.op = .bcast →
      s.sel = true →
      s.j < s.cfg.modules → s.breg = x.1 → s.bdata = d →
      exec (x.2 d) s = .next { s with
        trace := s.trace ++ [.w ⟨x.1, d⟩], chips := react (.w ⟨x.1, d⟩) s.chips, j := s.j + 1 }

/-- R145 (fault 2), R179: a row command that is not the pair of the block's own slot comes from another agent. While
the block is busy the fault is recorded and nothing else happens, fault 1 where a write on the frame buffer's port breaks
its contract too; while it is idle the chain shifts (R156) and the block's own state and trace stay (log entries 7
and 16, the model's choice; the address that fault 1 records is log entry 5). -/
def Obligations.RowCommandsFromAnotherAgent : Prop :=
  ∀ x ∈ [((1#8 : Byte), Instr.row1), (2#8, Instr.row2), (3#8, Instr.row3), (4#8, Instr.row4),
      (5#8, Instr.row5), (6#8, Instr.row6), (7#8, Instr.row7), (8#8, Instr.row8)],
    ∀ (s : State) (d : Byte), s.fault = none →
      (s.busy = true → s.fbWrite = none → txPair s ≠ some ⟨x.1, d⟩ →
        exec (x.2 d) s = .next { s with fault := some .busTouchedByOther }) ∧
      (∀ w, s.busy = true → s.fbWrite = some w →
        exec (x.2 d) s = .next { s with
          fault := some (.fbWriteWhileBusy (w.addr % 2 ^ s.cfg.fbAddrWidth)) }) ∧
      (s.busy = false →
        exec (x.2 d) s = .next { s with chips := react (.w ⟨x.1, d⟩) s.chips })

/-! ## Frames -/

/-- What no instruction changes: the parameters, every byte of the frame buffer, the Frame Assembler, the byte source,
the other inputs and the program, `configured` and `sel`; what an operation of the command port leaves beside; and
what a row command leaves beside, every chip register among it (R22, R62, R91, R116, R156). -/
def Obligations.FrameOfEveryInstruction : Prop :=
  ∀ (i : Instr) (s t : State), exec i s = .next t →
    (t.cfg = s.cfg ∧ (∀ a, Memory.read t.fb a = Memory.read s.fb a) ∧ t.idx = s.idx ∧
      t.waiting = s.waiting ∧ t.source = s.source ∧ t.configured = s.configured ∧ t.sel = s.sel ∧
      t.fbWrite = s.fbWrite ∧ t.busDrive = s.busDrive ∧ t.prog = s.prog ∧
      t.loopBody = s.loopBody) ∧
    (i = .render → t.breg = s.breg ∧ t.bdata = s.bdata) ∧
    (i = .render ∨ (∃ reg data, i = .bcast reg data) →
      t.trace = s.trace ∧ t.chips = s.chips ∧ t.fault = s.fault) ∧
    (i ≠ .render → (∀ reg data, i ≠ .bcast reg data) →
      t.busy = s.busy ∧ t.op = s.op ∧ t.r = s.r ∧ t.breg = s.breg ∧ t.bdata = s.bdata ∧
      t.cmd = s.cmd ∧ t.cmdIssuer = s.cmdIssuer ∧ t.opIssuer = s.opIssuer ∧
      ∀ c a, creg t c a = creg s c a)

/-- R22, R50, R64: no step of a busy block or while `FA` waits writes the frame buffer, and a step of any state changes no
byte of it but the one at `idx`. -/
def Obligations.FrameBufferWriters : Prop :=
  ∀ s t : State, step s = .next t →
    (s.busy = true ∨ s.waiting = true → ∀ a, Memory.read t.fb a = Memory.read s.fb a) ∧
    (∀ a, a ≠ s.idx → Memory.read t.fb a = Memory.read s.fb a)

/-- R6, R8: no step changes a parameter or the number of chips. -/
def Obligations.ParametersNeverChange : Prop :=
  ∀ s t : State, step s = .next t → t.cfg = s.cfg ∧ t.chips.length = s.chips.length

/-- R60: the visible registers change in no step but the one that emits `SD`. -/
def Obligations.RegistersChangeOnlyOnDeassert : Prop :=
  ∀ s t : State, step s = .next t →
    ¬(s.busy = true ∧ s.sel = true ∧ s.j = s.cfg.modules) →
    ∀ c a, creg t c a = creg s c a

/-! ## The chain -/

/-- R156: on a write every pair moves one chip on and the new one enters chip 0; no register changes; and after as many
writes as there are chips, chip `c` holds the pair sent `c` before the last. -/
def Obligations.ChainShiftsByOnePair : Prop :=
  (∀ (p : ChipCommand) (cs : List Chip),
    (react (.w p) cs).length = cs.length ∧
    (∀ c ∈ (react (.w p) cs)[0]?, c.sh = some p) ∧
    (∀ (n : Nat) (c d : Chip), cs[n]? = some c → (react (.w p) cs)[n + 1]? = some d → d.sh = c.sh) ∧
    (∀ (n : Nat) (c d : Chip) (a : Byte), cs[n]? = some c → (react (.w p) cs)[n]? = some d →
      d.creg a = c.creg a)) ∧
  (∀ (ws : List ChipCommand) (cs : List Chip), ws.length = cs.length →
    ∀ (n : Nat) (c : Chip), (reactAll cs (ws.map .w))[n]? = some c →
      c.sh = ws[ws.length - 1 - n]?)

/-- R157: on `SD` every chip that holds a pair writes exactly that register, a chip that holds none changes nothing,
no shift stage changes, and every chip is still there. -/
def Obligations.ChipsLatchTogether : Prop :=
  ∀ cs : List Chip, (react .sd cs).length = cs.length ∧
    ∀ (n : Nat) (c : Chip), cs[n]? = some c →
      ∃ d, (react .sd cs)[n]? = some d ∧ d.sh = c.sh ∧
        (∀ p, c.sh = some p →
          d.creg p.reg = some p.data ∧ ∀ a, a ≠ p.reg → d.creg a = c.creg a) ∧
        (c.sh = none → ∀ a, d.creg a = c.creg a)

/-- R121, R122: the five broadcasts of `INIT`, in any order, leave any chain initialised, if the configuration is well
formed. -/
def Obligations.InitBroadcastsInitialise : Prop :=
  ∀ (cfg : Config) (chips : List Chip) (order : List ChipCommand),
    cfg.wellFormed = true → chips.length = cfg.modules → order.Perm (initPairs cfg) →
    initialised cfg (reactAll chips (order.flatMap (bcastTrace cfg))) = true

/-- R31, R122: `configured` is written by no step but the completion of a `BCAST`; it is 1 whenever that leaves every
chip with the five values, and 0 whenever the `BCAST` wrote another value to one of the five registers and does not
leave the chain so; it rises and falls in no other case (that the model tells the completion of `INIT` by the values is
log entry 10). -/
def Obligations.ConfiguredFollowsTheChips : Prop :=
  ∀ s t : State, step s = .next t →
    (s.op = .bcast → doneOut s = true → initialised t.cfg t.chips = true → t.configured = true) ∧
    (s.op = .bcast → doneOut s = true → initialised t.cfg t.chips = false →
      (∃ q ∈ initPairs s.cfg, q.reg = s.breg ∧ q.data ≠ s.bdata) → t.configured = false) ∧
    (t.configured ≠ s.configured →
      (s.busy = true ∧ s.op = .bcast ∧ doneOut s = true) ∧
      (t.configured = true → initialised t.cfg t.chips = true) ∧
      (t.configured = false → ∃ q ∈ initPairs s.cfg, q.reg = s.breg ∧ q.data ≠ s.bdata))

/-- R160: what a module shows, and when a pixel is lit. -/
def Obligations.ShownRowsAndPixels : Prop :=
  ∀ (s : State) (c : Nat) (r : BitVec 3),
    (s.configured = true → shownRow s c r = creg s c (BitVec.ofNat 8 (r.toNat + 1))) ∧
    (s.configured = false → shownRow s c r = none) ∧
    (∀ (v : Byte) (b : Fin 8), shownRow s c r = some v → s.cfg.columnsDistinct = true →
      pixelAt s c r s.cfg.colOfBit[b.val] = some (v.getLsbD b.val == s.cfg.pixelOn))

/-! ## Whole operations -/

/-- R97: a `RENDER` accepted with the trace `T0` and the buffer `B` runs, in `8*(M+2)` steps after its acceptance, to a
state that is the one before the acceptance but for the trace `T0 ++ render_trace(B)`, the chain, and the
hand-off that `done` ends; the trace has 8 `SA`, 8 `SD` and `8*M` writes. -/
def Obligations.RenderRunsToItsTrace : Prop :=
  (∀ (s : State) (w : CmdWord), s.fault = none → s.busy = false → s.sel = false → s.r = 0#3 →
    s.j = 0 → Disciplined s → s.cmd = some w → w.getLsbD 16 = false →
    ∃ t, runFor (1 + 8 * (s.cfg.modules + 2)) s = .next t ∧
      t = { s with
        op := .render, waiting := false
        cmd := t.cmd, cmdIssuer := t.cmdIssuer, opIssuer := t.opIssuer
        trace := s.trace ++ renderTrace s.cfg s.fb, chips := t.chips }) ∧
  (∀ (cfg : Config) (fb : List Host.Cell),
    (renderTrace cfg fb).length = 8 * (cfg.modules + 2) ∧
    (renderTrace cfg fb).count .sa = 8 ∧ (renderTrace cfg fb).count .sd = 8 ∧
    (renderTrace cfg fb).countP (fun e => e ≠ .sa ∧ e ≠ .sd) = 8 * cfg.modules)

/-- R118: a `BCAST reg, data` accepted with the trace `T0` runs, in `M+2` steps after its acceptance, to
`T0 ++ bcast_trace(reg, data)`, the frame buffer unchanged. -/
def Obligations.BcastRunsToItsTrace : Prop :=
  (∀ (s : State) (w : CmdWord), s.fault = none → s.busy = false → s.sel = false →
    Disciplined s → s.cmd = some w → w.getLsbD 16 = true →
    ∃ t, runFor (1 + (s.cfg.modules + 2)) s = .next t ∧ t.busy = false ∧ t.sel = false ∧
      t.fault = none ∧ t.fb = s.fb ∧
      t.trace = s.trace ++ bcastTrace s.cfg ⟨w.extractLsb' 8 8, w.extractLsb' 0 8⟩) ∧
  (∀ (cfg : Config) (p : ChipCommand), (bcastTrace cfg p).length = cfg.modules + 2)

/-- R107, R108: after the first `n` rows of a `RENDER` over a chain of `M` chips, the row registers of those rows hold
the frame's bytes in every chip, chip `c` those of module `c`, and every other register is as before. With
`n = 8` the frame is painted. -/
def Obligations.RenderPaintsRowByRow : Prop :=
  ∀ s : State, AtFirstPosition s → s.op = .render → Disciplined s → ChainLength s →
    ∀ n, n ≤ 8 →
      ∃ t, runFor (n * (s.cfg.modules + 2)) s = .next t ∧
        (∀ c row, c < s.cfg.modules → row < n →
          creg t c (BitVec.ofNat 8 (row + 1)) = some (Memory.read s.fb (8 * c + row))) ∧
        (∀ c a, (∀ row, row < n → a ≠ BitVec.ofNat 8 (row + 1)) → creg t c a = creg s c a)

/-- R119: a `BCAST` over a chain of `M` chips writes its byte to its register in every chip, in the one step of the
`SD`, and no other register. -/
def Obligations.BcastReachesEveryChip : Prop :=
  ∀ s : State, AtFirstPosition s → s.op = .bcast → Disciplined s → ChainLength s →
    (∀ n, n < s.cfg.modules + 2 →
      ∃ u, runFor n s = .next u ∧ ∀ c a, creg u c a = creg s c a) ∧
    (∃ t, runFor (s.cfg.modules + 2) s = .next t ∧
      (∀ c, c < s.cfg.modules → creg t c s.breg = some s.bdata) ∧
      (∀ c a, a ≠ s.breg → creg t c a = creg s c a))

/-- R102: what a `RENDER` emits depends on nothing but the module count and the frame: two machines that agree on
them append the same events. -/
def Obligations.RenderDependsOnTheFrameAlone : Prop :=
  ∀ s₁ s₂ : State, AtFirstPosition s₁ → AtFirstPosition s₂ → s₁.op = .render → s₂.op = .render →
    Disciplined s₁ → Disciplined s₂ → s₁.cfg.modules = s₂.cfg.modules →
    (∀ a, a < s₁.cfg.frameBytes → Memory.read s₁.fb a = Memory.read s₂.fb a) →
    ∀ n, n ≤ 8 * (s₁.cfg.modules + 2) →
      ∃ t₁ t₂ events, runFor n s₁ = .next t₁ ∧ runFor n s₂ = .next t₂ ∧
        t₁.trace = s₁.trace ++ events ∧ t₂.trace = s₂.trace ++ events ∧ events.length = n

/-- R66, R75, R76, R88: every slot reads an address of the frame buffer, and every address of it belongs to exactly one
row and slot. -/
def Obligations.EachByteReadOnce : Prop :=
  ∀ cfg : Config,
    (∀ (r : BitVec 3) (j : Nat), j < cfg.modules → slotAddr cfg r j < cfg.frameBytes) ∧
    (∀ a, a < cfg.frameBytes →
      ∃! x : BitVec 3 × Nat, x.2 < cfg.modules ∧ slotAddr cfg x.1 x.2 = a)

/-! ## Faults -/

/-- R145 (faults 1 and 2), R147, R148: a broken contract is recorded in the step in which it first holds, over the step
it coincides with, and that step has no other effect. Where both contracts are broken at once the first is
recorded (log entry 9, the model's choice), and the address recorded is the low `FB_AW` bits of the held one (log entry
5, the model's reading). -/
def Obligations.BrokenContractIsRecorded : Prop :=
  ∀ s : State, s.fault = none → s.busy = true →
    (∀ w, s.fbWrite = some w →
      step s = .next { s with
        fault := some (.fbWriteWhileBusy (w.addr % 2 ^ s.cfg.fbAddrWidth)) }) ∧
    (∀ e, s.fbWrite = none → s.busDrive = some e →
      step s = .next { s with fault := some .busTouchedByOther })

/-- R34, R149: a recorded fault stays, and a faulted machine takes no step and accepts and emits nothing. -/
def Obligations.FaultedMachineStops : Prop :=
  ∀ (s : State) (f : FaultReason), s.fault = some f →
    step s = .fault (.halted f) ∧ (∀ i, exec i s = .fault (.halted f)) ∧ cmdReady s = false

/-! ## The Frame Assembler -/

/-- R127, R142: a poll that answers "no data" changes nothing but the number of the next poll, which is the model's own
index into the free answers (log entry 3). -/
def Obligations.NoDataChangesNothing : Prop :=
  ∀ s : State, AssemblerTurn s → s.source.poll = none →
    fbPort s = none ∧
    step s = .next { s with source := { s.source with polls := s.source.polls + 1 } }

/-- R128: a poll that delivers a byte stores it at `idx` and nowhere else, with no check of the address (R57), and the byte
that fills the buffer hands the frame over. In that step the program passes its line `RENDER`, in this pass of the
`LOOP` or at the head of the next (log entry 8, the model's reading). -/
def Obligations.ByteIsStored : Prop :=
  ∀ (s : State) (b : Byte), AssemblerTurn s → s.source.poll = some b →
    fbPort s = some ⟨s.idx, b⟩ ∧
    ∃ t, step s = .next t ∧
      (∀ a, Memory.read t.fb a = if a = s.idx then b else Memory.read s.fb a) ∧
      t.source = { s.source with
        consumed := s.source.consumed + 1
        arrivals := s.source.arrivals.tail
        polls := s.source.polls + 1 } ∧
      (s.idx + 1 < s.cfg.frameBytes →
        t = { s with fb := t.fb, source := t.source, idx := s.idx + 1 }) ∧
      (s.idx + 1 = s.cfg.frameBytes →
        t = { s with
          fb := t.fb, source := t.source, idx := 0, waiting := true, cmd := some 0x00000#17
          cmdIssuer := .assembler, prog := afterFrame s.loopBody (currentLines s) } ∧
        (∀ w rest, w.getLsbD 16 = false →
          (currentLines s = .accumulate :: .command w :: rest → t.prog = rest) ∧
          (currentLines s = [.accumulate] → s.loopBody = .command w :: rest → t.prog = rest)))

/-- R129: a frame is handed over in exactly the step that stores the byte at offset `8*M - 1`, with the index back at 0
and one `RENDER` presented. -/
def Obligations.HandOffExactlyWhenFull : Prop :=
  ∀ s t : State, Inv s → step s = .next t → s.waiting = false →
    (t.waiting = true ↔
      t.source.consumed = s.source.consumed + 1 ∧ s.idx + 1 = s.cfg.frameBytes) ∧
    (t.waiting = true → t.idx = 0 ∧ t.cmd = some renderWord ∧ t.busy = false)

/-- R133, R193: only the `done` of the block ends a wait of the Frame Assembler. -/
def Obligations.OnlyDoneEndsTheWait : Prop :=
  ∀ s t : State, step s = .next t → s.waiting = true →
    (t.waiting = false ↔ doneOut s = true)

/-- R54, R130: framing is positional: every step keeps the index at the number of bytes taken, modulo the frame. As it
speaks of every frame, it takes the premise ChannelLossless (R194). -/
def Obligations.FramingIsPositional : Prop :=
  ∀ s t : State, Inv s → ChannelLossless s → Positional s → step s = .next t → Positional t

/-- R137: the byte source loses, reorders and invents nothing: the byte that a poll delivers is the next one of the
stream, and a byte that is there is delivered after finitely many polls (the form of the free value is log entry 3). -/
def Obligations.ByteSourceDelivers : Prop :=
  (∀ (h : ByteSource) (b : Byte), h.poll = some b →
    h.nextByte = some b ∧ (h.consumed < h.stream.length → h.stream[h.consumed]? = some b) ∧
    (h.endless = false → h.consumed < h.stream.length)) ∧
  (∀ (h : ByteSource) (b : Byte), h.stream[h.consumed]? = some b →
    ∃ n, (Nat.repeat ByteSource.afterNoData n h).poll = some b) ∧
  (∀ h : ByteSource, h.endless = true →
    ∃ n, (Nat.repeat ByteSource.afterNoData n h).poll.isSome = true)

/-- R132, R192: when the stream is finite and all of it is taken, and nothing is presented or left to run, the machine
polls for ever and changes nothing but the number of the next poll (log entry 3). -/
def Obligations.FinishedRunStaysAsItIs : Prop :=
  ∀ s : State, RunOver s → AssemblerTurn s →
    ∀ n, runFor n s = .next { s with source := { s.source with polls := s.source.polls + n } }

/-- R86: a command line of the environment's program is presented when the block is idle and nothing else is, and accepted
in that step (log entry 8 for the program as state). -/
def Obligations.ProgramLineIsPresented : Prop :=
  ∀ (s : State) (w : CmdWord) (rest : List EnvLine), s.fault = none → s.busy = false →
    s.waiting = false → s.cmd = none → currentLines s = .command w :: rest →
    cmdPort s = some w ∧
    step s = exec (decodeCmd w) { s with cmd := some w, cmdIssuer := .other, prog := rest } ∧
    ∃ t, step s = .next t ∧ t.busy = true ∧ t.cmd = none ∧ t.prog = rest

/-- R161: when the Frame Assembler has handed a frame over to a configured machine with `M` chips, then after the `done`
that follows module `c` shows the bytes of segment `c`, row by row, and at every step on the way each row shows its
byte of the new frame or what it showed before. The new frame is the last `8*M` bytes taken from the stream: where the
buffer was filled from it (Obligations.BufferHoldsTheStream), frame number `f` is its bytes `8*M*f` to
`8*M*f + 8*M - 1`; as `f` is any, the premise ChannelLossless stands (R194). -/
def Obligations.FrameReachesTheDisplay : Prop :=
  ∀ s : State, Inv s → s.fault = none → s.waiting = true → s.busy = false → Disciplined s →
    ChainLength s → Configured s → ChannelLossless s → BusReliable s →
    (∃ t, runFor (1 + 8 * (s.cfg.modules + 2)) s = .next t ∧ t.waiting = false ∧
      (∀ c r, c < s.cfg.modules → shownRow t c r = some (Memory.read s.fb (8 * c + r.toNat))) ∧
      (Assembled s → ∀ f, s.source.consumed = s.cfg.frameBytes * (f + 1) →
        ∀ c r, c < s.cfg.modules →
          shownRow t c r = s.source.byteAt (s.cfg.frameBytes * f + (8 * c + r.toNat)))) ∧
    (∀ n, n ≤ 1 + 8 * (s.cfg.modules + 2) →
      ∃ u, runFor n s = .next u ∧
        ∀ c r, c < s.cfg.modules →
          shownRow u c r = some (Memory.read s.fb (8 * c + r.toNat)) ∨
          shownRow u c r = shownRow s c r)

/-! ## The stream, the phases, the program -/

/-- R54, R130, R65 (a): the frame buffer holds the stream: every step keeps the bytes below `idx` equal to the last bytes
taken from it, and, from the hand-off to `done`, the whole buffer equal to the last `8*M` of them. As it
speaks of every frame, it takes the premise ChannelLossless (R194). -/
def Obligations.BufferHoldsTheStream : Prop :=
  ∀ s t : State, Inv s → ChannelLossless s → Assembled s → step s = .next t → Assembled t

/-- R173, R174, R190: from reset the machine runs the boot sequence: its first step accepts `BCAST REG_TEST`, the five
broadcasts of `INIT` take `5*(M+2)` steps and five acceptances, and then the main loop polls for the first byte. With a
well-formed configuration the machine is then configured (R122). -/
def Obligations.BootRunsInit : Prop :=
  ∀ cfg : Config, cfg.chainLength = cfg.modules →
    (∃ u, step (State.resetWith cfg) = .next u ∧ u.busy = true ∧ u.op = .bcast ∧
      u.breg = cfg.regTest ∧ u.bdata = cfg.valTestOff) ∧
    ∃ t, runFor (5 * (cfg.modules + 2) + 5) (State.resetWith cfg) = .next t ∧
      AssemblerTurn t ∧ t.prog = [] ∧ t.loopBody = [.accumulate, .command 0x00000#17] ∧ t.idx = 0 ∧
      t.source.consumed = 0 ∧ t.trace = (initPairs cfg).flatMap (bcastTrace cfg) ∧
      (cfg.wellFormed = true → t.configured = true)

/-- R105, R129, R134: in the main loop, the poll that completes a frame is followed by one acceptance and one `RENDER`, and
then it is the Frame Assembler's turn again with the loop at its start: the frame is rendered once (log entry 8 for the
program as state). -/
def Obligations.MainLoopRendersEachFrameOnce : Prop :=
  ∀ (s : State) (b : Byte), Inv s → AssemblerTurn s → Disciplined s → ChannelLossless s → s.prog = [] →
    s.loopBody = [.accumulate, .command 0x00000#17] → s.source.poll = some b →
    s.idx + 1 = s.cfg.frameBytes →
    ∃ t, runFor (2 + 8 * (s.cfg.modules + 2)) s = .next t ∧
      t.trace = s.trace ++ renderTrace s.cfg t.fb ∧
      (∀ a, Memory.read t.fb a = if a = s.idx then b else Memory.read s.fb a) ∧
      AssemblerTurn t ∧ t.idx = 0 ∧ t.prog = [] ∧ t.loopBody = s.loopBody ∧
      t.source.consumed = s.source.consumed + 1

/-- R137, R144, R194: the premises on the channel and the bus hold in the whole run from every state of the model (log
entry 14). -/
def Obligations.ChannelAndBusAreReliable : Prop :=
  ∀ s : State, ChannelLossless s ∧ Fair s ∧ BusReliable s

/-- R64, R135: the phases never overlap. Only a step with `busy = 0` and `waiting = 0` polls the byte source or changes the
frame buffer; only one with `busy = 1` in a `RENDER` reads the buffer, and it changes neither. -/
def Obligations.PhasesNeverOverlap : Prop :=
  ∀ s t : State, step s = .next t →
    (t.source ≠ s.source ∨ t.fb ≠ s.fb ∨ t.idx ≠ s.idx →
      s.busy = false ∧ s.waiting = false ∧ assemblerPolls s = true) ∧
    (∀ a, fbRaddr s = some a →
      s.busy = true ∧ s.op = .render ∧ a < s.cfg.frameBytes ∧ t.fb = s.fb ∧ t.source = s.source)

/-- R50 (a), R64, R193: in an idle state no other agent has a move: what is held on the frame buffer's write port and on
the bus changes nothing of the step (that it stays held is log entry 7, the model's choice). -/
def Obligations.NoMoveOutOfTurn : Prop :=
  ∀ (s t : State) (w : Option FbWrite) (e : Option BusEvent), s.busy = false →
    step s = .next t →
    step { s with fbWrite := w, busDrive := e } = .next { t with fbWrite := w, busDrive := e }

/-- R9, R41: the width of the frame buffer's address ports is the least number of bits that holds every address, at least
3, and every address that the block reads fits. -/
def Obligations.FrameBufferAddressWidth : Prop :=
  ∀ cfg : Config,
    cfg.frameBytes ≤ 2 ^ cfg.fbAddrWidth ∧ 3 ≤ cfg.fbAddrWidth ∧
    (∀ k, cfg.frameBytes ≤ 2 ^ k → cfg.fbAddrWidth ≤ k) ∧
    (∀ (r : BitVec 3) (j : Nat), j < cfg.modules → slotAddr cfg r j < 2 ^ cfg.fbAddrWidth)

/-- R105, R134, R137: in the main loop every frame of the stream is handed over, in its order: where all the bytes of the
frames up to number `f` exist, the run comes to the hand-off at which exactly these are taken. It rests on Fair, for
something eventually happens, and on ChannelLossless, for `f` is any (R194; log entry 8 for the program as state, log
entry 9 for the turn). -/
def Obligations.EveryFrameIsHandedOver : Prop :=
  ∀ s : State, Inv s → AssemblerTurn s → Positional s → Disciplined s → ChannelLossless s → Fair s →
    s.prog = [] → s.loopBody = [.accumulate, .command 0x00000#17] →
    ∀ f, s.source.consumed < s.cfg.frameBytes * (f + 1) →
      (∀ i, i < s.cfg.frameBytes * (f + 1) → (s.source.byteAt i).isSome = true) →
      ∃ n t, runFor n s = .next t ∧ t.waiting = true ∧ t.busy = false ∧ t.cmd = some 0x00000#17 ∧
        t.idx = 0 ∧ t.source.consumed = s.cfg.frameBytes * (f + 1)

/-- R130, R161: in a run from a launch state every frame of the stream is shown as it was sent: wherever the run comes to a
hand-off, a whole number `f + 1` of frames has been taken, and with a configured chain of `M` chips the `RENDER` that
follows leaves module `c` showing bytes `8*M*f + 8*c` to `8*M*f + 8*c + 7` of the stream of the launch. -/
def Obligations.EveryFrameOfTheStreamIsShown : Prop :=
  ∀ s : State, NoFault s → Inv s → Positional s → Assembled s → ChainLength s → Disciplined s →
    ChannelLossless s → BusReliable s →
    ∀ n t, runFor n s = .next t → t.waiting = true → t.busy = false → Configured t →
      ∃ f u, t.source.consumed = s.cfg.frameBytes * (f + 1) ∧
        runFor (1 + 8 * (s.cfg.modules + 2)) t = .next u ∧ u.waiting = false ∧
        ∀ c r, c < s.cfg.modules →
          shownRow u c r = s.source.byteAt (s.cfg.frameBytes * f + (8 * c + r.toNat))
end

