-- ==== Sys2Proof/Laws/Memory.lean ====
section
/-!
SUPPORT. The two byte memories: reading back, leaving every other place alone, keeping the canonical form.
-/

namespace Sys2Proof.Machine

theorem cellAt_putCell (m : List Host.Cell) (a b : Nat) (v : Byte) :
    cellAt (putCell a v m) b = if b = a then some v else cellAt m b := by
  induction m with
  | nil => simp [putCell, cellAt]
  | cons x rest ih =>
    obtain ⟨c, w⟩ := x
    simp only [putCell]
    split_ifs <;> simp_all [cellAt]

theorem cellAt_dropCell (m : List Host.Cell) (a b : Nat) :
    cellAt (dropCell a m) b = if b = a then none else cellAt m b := by
  induction m with
  | nil => simp [dropCell, cellAt]
  | cons x rest ih =>
    obtain ⟨c, w⟩ := x
    simp only [dropCell]
    split_ifs <;> simp_all [cellAt]

/-- A read after a write: the byte written at its address, every other byte as before. -/
theorem Memory.read_write (fb : List Host.Cell) (a b : Nat) (v : Byte) :
    Memory.read (Memory.write fb a v) b = if b = a then v else Memory.read fb b := by
  unfold Memory.read Memory.write
  split_ifs with h1 h2 h2 <;> simp [cellAt_putCell, cellAt_dropCell, h1, h2]

@[simp] theorem Memory.read_empty (a : Nat) : Memory.read [] a = 0 := rfl

/-- Every cell of a list after `putCell` is the new one or an old one. -/
theorem mem_putCell {m : List Host.Cell} {a : Nat} {v : Byte} {c : Host.Cell}
    (h : c ∈ putCell a v m) : c = (a, v) ∨ c ∈ m := by
  induction m with
  | nil => simpa [putCell] using h
  | cons x rest ih =>
    obtain ⟨b, w⟩ := x
    simp only [putCell] at h
    split_ifs at h <;> simp only [List.mem_cons] at h ⊢ <;> tauto

theorem mem_dropCell {m : List Host.Cell} {a : Nat} {c : Host.Cell}
    (h : c ∈ dropCell a m) : c ∈ m := by
  induction m with
  | nil => simp [dropCell] at h
  | cons x rest ih =>
    obtain ⟨b, w⟩ := x
    simp only [dropCell] at h
    split_ifs at h <;> simp only [List.mem_cons] at h ⊢ <;> tauto

theorem rising_cons {b : Nat} {w : Byte} {rest : List Host.Cell} :
    Rising ((b, w) :: rest) ↔ (∀ c ∈ rest, b < c.1) ∧ Rising rest := by
  simp [Rising]

theorem rising_putCell {m : List Host.Cell} (a : Nat) (v : Byte) (h : Rising m) :
    Rising (putCell a v m) := by
  induction m with
  | nil => simp [putCell, Rising]
  | cons x rest ih =>
    obtain ⟨b, w⟩ := x
    obtain ⟨hb, hr⟩ := rising_cons.1 h
    simp only [putCell]
    split_ifs with h1 h2
    · refine rising_cons.2 ⟨fun c hc => ?_, h⟩
      rcases List.mem_cons.1 hc with rfl | hc
      · exact h1
      · exact h1.trans (hb c hc)
    · exact rising_cons.2 ⟨fun c hc => h2 ▸ hb c hc, hr⟩
    · refine rising_cons.2 ⟨fun c hc => ?_, ih hr⟩
      rcases mem_putCell hc with rfl | hc
      · simp only; omega
      · exact hb c hc

theorem rising_dropCell {m : List Host.Cell} (a : Nat) (h : Rising m) : Rising (dropCell a m) := by
  induction m with
  | nil => simp [dropCell, Rising]
  | cons x rest ih =>
    obtain ⟨b, w⟩ := x
    obtain ⟨hb, hr⟩ := rising_cons.1 h
    simp only [dropCell]
    split_ifs
    · exact ih hr
    · exact rising_cons.2 ⟨fun c hc => hb c (mem_dropCell hc), ih hr⟩

/-- Every memory operation keeps the canonical form of the frame buffer. -/
theorem Memory.wf_write {fb : List Host.Cell} (a : Nat) (v : Byte) (h : Memory.wf fb) :
    Memory.wf (Memory.write fb a v) := by
  unfold Memory.write
  split_ifs with hv
  · exact ⟨rising_dropCell a h.1, fun c hc => h.2 c (mem_dropCell hc)⟩
  · refine ⟨rising_putCell a v h.1, fun c hc => ?_⟩
    rcases mem_putCell hc with rfl | hc
    · exact hv
    · exact h.2 c hc

/-- A write inside the frame buffer lists no address outside it. -/
theorem Memory.within_write {cfg : Config} {fb : List Host.Cell} {a : Nat} (v : Byte)
    (h : Memory.within cfg fb) (ha : a < cfg.frameBytes) :
    Memory.within cfg (Memory.write fb a v) := by
  unfold Memory.write
  split_ifs
  · exact fun c hc => h c (mem_dropCell hc)
  · intro c hc
    rcases mem_putCell hc with rfl | hc
    · exact ha
    · exact h c hc

theorem Memory.wf_empty : Memory.wf [] := ⟨by simp [Rising], by simp⟩

/-- A chip register after a write to one of them. -/
theorem Chip.creg_setReg (c : Chip) (a b v : Byte) :
    (c.setReg a v).creg b = if b = a then some v else c.creg b := by
  simp [Chip.creg, Chip.setReg, cellAt_putCell, BitVec.toNat_inj]

theorem Chip.wf_setReg {c : Chip} (a v : Byte) (h : c.wf) : (c.setReg a v).wf := by
  refine ⟨rising_putCell _ _ h.1, fun x hx => ?_⟩
  rcases mem_putCell hx with rfl | hx
  · exact a.isLt
  · exact h.2 x hx

@[simp] theorem Chip.setReg_sh (c : Chip) (a v : Byte) : (c.setReg a v).sh = c.sh := rfl

@[simp] theorem Chip.creg_blank (a : Byte) : Chip.blank.creg a = none := rfl

end Sys2Proof.Machine
end

