-- ==== Sys2Proof/Laws/Chain.lean ====
section
/-!
SUPPORT. What a bus event does to the chain: lengths, shift stages, registers, the canonical form.
-/

namespace Sys2Proof.Machine

@[simp] theorem length_shiftIn (p : Option ChipCommand) (cs : List Chip) :
    (shiftIn p cs).length = cs.length := by
  induction cs generalizing p with
  | nil => rfl
  | cons c cs ih => simp [shiftIn, ih]

@[simp] theorem length_react (e : BusEvent) (cs : List Chip) : (react e cs).length = cs.length := by
  cases e <;> simp [react]

@[simp] theorem Chip.latch_sh (c : Chip) : c.latch.sh = c.sh := by
  unfold Chip.latch; split <;> simp_all

/-- A latched chip: its register of the pair's number holds the pair's byte, every other is as before. -/
theorem Chip.creg_latch (c : Chip) (a : Byte) :
    c.latch.creg a =
      match c.sh with
      | some p => if a = p.reg then some p.data else c.creg a
      | none => c.creg a := by
  unfold Chip.latch; split <;> simp [Chip.creg_setReg, *]

theorem Chip.wf_latch {c : Chip} (h : c.wf) : c.latch.wf := by
  unfold Chip.latch; split
  · exact Chip.wf_setReg _ _ h
  · exact h

/-- A shift leaves every chip's registers alone. -/
theorem regs_shiftIn (p : Option ChipCommand) (cs : List Chip) :
    (shiftIn p cs).map Chip.regs = cs.map Chip.regs := by
  induction cs generalizing p with
  | nil => rfl
  | cons c cs ih => simp [shiftIn, ih]

/-- A shift moves every pair one chip on and puts the new one into the first chip. -/
theorem shiftStages_shiftIn (p : Option ChipCommand) (cs : List Chip) :
    (shiftIn p cs).map Chip.sh = (p :: cs.map Chip.sh).take cs.length := by
  induction cs generalizing p with
  | nil => rfl
  | cons c cs ih => simp [shiftIn, ih]

theorem wf_shiftIn {p : Option ChipCommand} {cs : List Chip} (h : ∀ c ∈ cs, c.wf) :
    ∀ c ∈ shiftIn p cs, c.wf := by
  induction cs generalizing p with
  | nil => simp [shiftIn]
  | cons c cs ih =>
    intro x hx
    rcases List.mem_cons.1 hx with rfl | hx
    · exact h c (by simp)
    · exact ih (fun y hy => h y (by simp [hy])) x hx

/-- Every bus event keeps the canonical form of the register files. -/
theorem wf_react {e : BusEvent} {cs : List Chip} (h : ∀ c ∈ cs, c.wf) :
    ∀ c ∈ react e cs, c.wf := by
  cases e with
  | sa => exact h
  | w p => exact wf_shiftIn h
  | sd =>
    intro c hc
    obtain ⟨d, hd, rfl⟩ := List.mem_map.1 hc
    exact Chip.wf_latch (h d hd)

end Sys2Proof.Machine
end

