-- ==== Sys2Proof/Laws/Encoding.lean ====
section
/-!
SUPPORT. The fields of the encoder's words, and the words as the numbers the opcode table masks.
-/

namespace Sys2Proof

theorem getLsbD_bcastWord (reg data : Byte) (n : Nat) :
    (bcastWord reg data).getLsbD n =
      if n < 8 then data.getLsbD n else (1#1 ++ reg).getLsbD (n - 8) := BitVec.getLsbD_append

@[simp] theorem extract_reg_bcastWord (reg data : Byte) :
    (bcastWord reg data).extractLsb' 8 8 = reg := by
  ext i hi
  rw [BitVec.getElem_extractLsb', getLsbD_bcastWord, if_neg (by omega), BitVec.getLsbD_append,
    if_pos (by omega)]
  simp [BitVec.getLsbD_eq_getElem hi]

@[simp] theorem extract_data_bcastWord (reg data : Byte) :
    (bcastWord reg data).extractLsb' 0 8 = data := BitVec.extractLsb'_append_eq_right

@[simp] theorem opc_bcastWord (reg data : Byte) : (bcastWord reg data).getLsbD 16 = true := by
  rw [getLsbD_bcastWord, if_neg (by omega), BitVec.getLsbD_append, if_neg (by omega)]; rfl

@[simp] theorem extract_reg_wordOfPair (p : ChipCommand) :
    (wordOfPair p).extractLsb' 8 8 = p.reg := BitVec.extractLsb'_append_eq_left

@[simp] theorem extract_data_wordOfPair (p : ChipCommand) :
    (wordOfPair p).extractLsb' 0 8 = p.data := BitVec.extractLsb'_append_eq_right

/-- The command word of a `BCAST` under the opcode mask of format `CMD`. -/
theorem mask_bcastWord (reg data : Byte) : (bcastWord reg data).toNat &&& 0x10000 = 0x10000 := by
  have h : bcastWord reg data &&& (1#1 ++ 0#8 ++ 0#8) = 1#1 ++ 0#8 ++ 0#8 := by
    unfold bcastWord
    rw [BitVec.and_append, BitVec.and_append]
    simp
  simpa using congrArg BitVec.toNat h

/-- A pair word under the register mask of format `CRC`. -/
theorem mask_wordOfPair (p : ChipCommand) : (wordOfPair p).toNat &&& 0xFF00 = p.reg.toNat * 256 := by
  have h : wordOfPair p &&& (BitVec.allOnes 8 ++ 0#8) = p.reg ++ 0#8 := by
    unfold wordOfPair
    rw [BitVec.and_append, BitVec.and_allOnes, BitVec.and_zero]
  have h2 : (p.reg ++ 0#8).toNat = p.reg.toNat * 256 := by
    rw [BitVec.toNat_append]; simp [Nat.shiftLeft_eq]
  rw [← h2, ← h]; rfl

/-- A pair word fits the `CRC` row whose pattern is its register number, and no other row. -/
theorem fits_wordOfPair (row : OpcodeRow) (p : ChipCommand) (hm : row.mask = 0xFF00) :
    row.fits (.crc (wordOfPair p)) =
      (decide (row.format = .crc) && decide (p.reg.toNat * 256 = row.pattern)) := by
  unfold OpcodeRow.fits InstrWord.format InstrWord.toNat
  rw [hm, mask_wordOfPair]

end Sys2Proof
end

