-- ==== Sys2Proof/Laws/State.lean ====
section
/-!
SUPPORT. What each named update of the state does to each field, so that no proof unfolds a record update.
-/

namespace Sys2Proof.Machine

@[simp] theorem raiseFault_cfg (f : FaultReason) (s : State) :
    (raiseFault f s).cfg = s.cfg := rfl
@[simp] theorem raiseFault_fb (f : FaultReason) (s : State) :
    (raiseFault f s).fb = s.fb := rfl
@[simp] theorem raiseFault_busy (f : FaultReason) (s : State) :
    (raiseFault f s).busy = s.busy := rfl
@[simp] theorem raiseFault_op (f : FaultReason) (s : State) :
    (raiseFault f s).op = s.op := rfl
@[simp] theorem raiseFault_r (f : FaultReason) (s : State) :
    (raiseFault f s).r = s.r := rfl
@[simp] theorem raiseFault_j (f : FaultReason) (s : State) :
    (raiseFault f s).j = s.j := rfl
@[simp] theorem raiseFault_breg (f : FaultReason) (s : State) :
    (raiseFault f s).breg = s.breg := rfl
@[simp] theorem raiseFault_bdata (f : FaultReason) (s : State) :
    (raiseFault f s).bdata = s.bdata := rfl
@[simp] theorem raiseFault_sel (f : FaultReason) (s : State) :
    (raiseFault f s).sel = s.sel := rfl
@[simp] theorem raiseFault_fault (f : FaultReason) (s : State) :
    (raiseFault f s).fault = some f := rfl
@[simp] theorem raiseFault_trace (f : FaultReason) (s : State) :
    (raiseFault f s).trace = s.trace := rfl
@[simp] theorem raiseFault_configured (f : FaultReason) (s : State) :
    (raiseFault f s).configured = s.configured := rfl
@[simp] theorem raiseFault_idx (f : FaultReason) (s : State) :
    (raiseFault f s).idx = s.idx := rfl
@[simp] theorem raiseFault_waiting (f : FaultReason) (s : State) :
    (raiseFault f s).waiting = s.waiting := rfl
@[simp] theorem raiseFault_source (f : FaultReason) (s : State) :
    (raiseFault f s).source = s.source := rfl
@[simp] theorem raiseFault_chips (f : FaultReason) (s : State) :
    (raiseFault f s).chips = s.chips := rfl
@[simp] theorem raiseFault_cmd (f : FaultReason) (s : State) :
    (raiseFault f s).cmd = s.cmd := rfl
@[simp] theorem raiseFault_cmdIssuer (f : FaultReason) (s : State) :
    (raiseFault f s).cmdIssuer = s.cmdIssuer := rfl
@[simp] theorem raiseFault_opIssuer (f : FaultReason) (s : State) :
    (raiseFault f s).opIssuer = s.opIssuer := rfl
@[simp] theorem raiseFault_fbWrite (f : FaultReason) (s : State) :
    (raiseFault f s).fbWrite = s.fbWrite := rfl
@[simp] theorem raiseFault_busDrive (f : FaultReason) (s : State) :
    (raiseFault f s).busDrive = s.busDrive := rfl
@[simp] theorem raiseFault_prog (f : FaultReason) (s : State) :
    (raiseFault f s).prog = s.prog := rfl
@[simp] theorem raiseFault_loopBody (f : FaultReason) (s : State) :
    (raiseFault f s).loopBody = s.loopBody := rfl

@[simp] theorem emit_cfg (e : BusEvent) (s : State) :
    (emit e s).cfg = s.cfg := rfl
@[simp] theorem emit_fb (e : BusEvent) (s : State) :
    (emit e s).fb = s.fb := rfl
@[simp] theorem emit_busy (e : BusEvent) (s : State) :
    (emit e s).busy = s.busy := rfl
@[simp] theorem emit_op (e : BusEvent) (s : State) :
    (emit e s).op = s.op := rfl
@[simp] theorem emit_r (e : BusEvent) (s : State) :
    (emit e s).r = s.r := rfl
@[simp] theorem emit_j (e : BusEvent) (s : State) :
    (emit e s).j = s.j := rfl
@[simp] theorem emit_breg (e : BusEvent) (s : State) :
    (emit e s).breg = s.breg := rfl
@[simp] theorem emit_bdata (e : BusEvent) (s : State) :
    (emit e s).bdata = s.bdata := rfl
@[simp] theorem emit_sel (e : BusEvent) (s : State) :
    (emit e s).sel = s.sel := rfl
@[simp] theorem emit_fault (e : BusEvent) (s : State) :
    (emit e s).fault = s.fault := rfl
@[simp] theorem emit_trace (e : BusEvent) (s : State) :
    (emit e s).trace = s.trace ++ [e] := rfl
@[simp] theorem emit_configured (e : BusEvent) (s : State) :
    (emit e s).configured = s.configured := rfl
@[simp] theorem emit_idx (e : BusEvent) (s : State) :
    (emit e s).idx = s.idx := rfl
@[simp] theorem emit_waiting (e : BusEvent) (s : State) :
    (emit e s).waiting = s.waiting := rfl
@[simp] theorem emit_source (e : BusEvent) (s : State) :
    (emit e s).source = s.source := rfl
@[simp] theorem emit_chips (e : BusEvent) (s : State) :
    (emit e s).chips = react e s.chips := rfl
@[simp] theorem emit_cmd (e : BusEvent) (s : State) :
    (emit e s).cmd = s.cmd := rfl
@[simp] theorem emit_cmdIssuer (e : BusEvent) (s : State) :
    (emit e s).cmdIssuer = s.cmdIssuer := rfl
@[simp] theorem emit_opIssuer (e : BusEvent) (s : State) :
    (emit e s).opIssuer = s.opIssuer := rfl
@[simp] theorem emit_fbWrite (e : BusEvent) (s : State) :
    (emit e s).fbWrite = s.fbWrite := rfl
@[simp] theorem emit_busDrive (e : BusEvent) (s : State) :
    (emit e s).busDrive = s.busDrive := rfl
@[simp] theorem emit_prog (e : BusEvent) (s : State) :
    (emit e s).prog = s.prog := rfl
@[simp] theorem emit_loopBody (e : BusEvent) (s : State) :
    (emit e s).loopBody = s.loopBody := rfl

@[simp] theorem takeCommand_cfg (s : State) :
    (takeCommand s).cfg = s.cfg := rfl
@[simp] theorem takeCommand_fb (s : State) :
    (takeCommand s).fb = s.fb := rfl
@[simp] theorem takeCommand_busy (s : State) :
    (takeCommand s).busy = s.busy := rfl
@[simp] theorem takeCommand_op (s : State) :
    (takeCommand s).op = s.op := rfl
@[simp] theorem takeCommand_r (s : State) :
    (takeCommand s).r = s.r := rfl
@[simp] theorem takeCommand_j (s : State) :
    (takeCommand s).j = s.j := rfl
@[simp] theorem takeCommand_breg (s : State) :
    (takeCommand s).breg = s.breg := rfl
@[simp] theorem takeCommand_bdata (s : State) :
    (takeCommand s).bdata = s.bdata := rfl
@[simp] theorem takeCommand_sel (s : State) :
    (takeCommand s).sel = s.sel := rfl
@[simp] theorem takeCommand_fault (s : State) :
    (takeCommand s).fault = s.fault := rfl
@[simp] theorem takeCommand_trace (s : State) :
    (takeCommand s).trace = s.trace := rfl
@[simp] theorem takeCommand_configured (s : State) :
    (takeCommand s).configured = s.configured := rfl
@[simp] theorem takeCommand_idx (s : State) :
    (takeCommand s).idx = s.idx := rfl
@[simp] theorem takeCommand_waiting (s : State) :
    (takeCommand s).waiting = s.waiting := rfl
@[simp] theorem takeCommand_source (s : State) :
    (takeCommand s).source = s.source := rfl
@[simp] theorem takeCommand_chips (s : State) :
    (takeCommand s).chips = s.chips := rfl
@[simp] theorem takeCommand_cmd (s : State) :
    (takeCommand s).cmd = none := rfl
@[simp] theorem takeCommand_cmdIssuer (s : State) :
    (takeCommand s).cmdIssuer = .other := rfl
@[simp] theorem takeCommand_opIssuer (s : State) :
    (takeCommand s).opIssuer = s.cmdIssuer := rfl
@[simp] theorem takeCommand_fbWrite (s : State) :
    (takeCommand s).fbWrite = s.fbWrite := rfl
@[simp] theorem takeCommand_busDrive (s : State) :
    (takeCommand s).busDrive = s.busDrive := rfl
@[simp] theorem takeCommand_prog (s : State) :
    (takeCommand s).prog = s.prog := rfl
@[simp] theorem takeCommand_loopBody (s : State) :
    (takeCommand s).loopBody = s.loopBody := rfl

@[simp] theorem acceptRender_cfg (s : State) :
    (acceptRender s).cfg = s.cfg := rfl
@[simp] theorem acceptRender_fb (s : State) :
    (acceptRender s).fb = s.fb := rfl
@[simp] theorem acceptRender_busy (s : State) :
    (acceptRender s).busy = true := rfl
@[simp] theorem acceptRender_op (s : State) :
    (acceptRender s).op = .render := rfl
@[simp] theorem acceptRender_r (s : State) :
    (acceptRender s).r = 0 := rfl
@[simp] theorem acceptRender_j (s : State) :
    (acceptRender s).j = 0 := rfl
@[simp] theorem acceptRender_breg (s : State) :
    (acceptRender s).breg = s.breg := rfl
@[simp] theorem acceptRender_bdata (s : State) :
    (acceptRender s).bdata = s.bdata := rfl
@[simp] theorem acceptRender_sel (s : State) :
    (acceptRender s).sel = s.sel := rfl
@[simp] theorem acceptRender_fault (s : State) :
    (acceptRender s).fault = s.fault := rfl
@[simp] theorem acceptRender_trace (s : State) :
    (acceptRender s).trace = s.trace := rfl
@[simp] theorem acceptRender_configured (s : State) :
    (acceptRender s).configured = s.configured := rfl
@[simp] theorem acceptRender_idx (s : State) :
    (acceptRender s).idx = s.idx := rfl
@[simp] theorem acceptRender_waiting (s : State) :
    (acceptRender s).waiting = s.waiting := rfl
@[simp] theorem acceptRender_source (s : State) :
    (acceptRender s).source = s.source := rfl
@[simp] theorem acceptRender_chips (s : State) :
    (acceptRender s).chips = s.chips := rfl
@[simp] theorem acceptRender_cmd (s : State) :
    (acceptRender s).cmd = none := rfl
@[simp] theorem acceptRender_cmdIssuer (s : State) :
    (acceptRender s).cmdIssuer = .other := rfl
@[simp] theorem acceptRender_opIssuer (s : State) :
    (acceptRender s).opIssuer = s.cmdIssuer := rfl
@[simp] theorem acceptRender_fbWrite (s : State) :
    (acceptRender s).fbWrite = s.fbWrite := rfl
@[simp] theorem acceptRender_busDrive (s : State) :
    (acceptRender s).busDrive = s.busDrive := rfl
@[simp] theorem acceptRender_prog (s : State) :
    (acceptRender s).prog = s.prog := rfl
@[simp] theorem acceptRender_loopBody (s : State) :
    (acceptRender s).loopBody = s.loopBody := rfl

@[simp] theorem acceptBcast_cfg (reg data : Byte) (s : State) :
    (acceptBcast reg data s).cfg = s.cfg := rfl
@[simp] theorem acceptBcast_fb (reg data : Byte) (s : State) :
    (acceptBcast reg data s).fb = s.fb := rfl
@[simp] theorem acceptBcast_busy (reg data : Byte) (s : State) :
    (acceptBcast reg data s).busy = true := rfl
@[simp] theorem acceptBcast_op (reg data : Byte) (s : State) :
    (acceptBcast reg data s).op = .bcast := rfl
@[simp] theorem acceptBcast_r (reg data : Byte) (s : State) :
    (acceptBcast reg data s).r = 0 := rfl
@[simp] theorem acceptBcast_j (reg data : Byte) (s : State) :
    (acceptBcast reg data s).j = 0 := rfl
@[simp] theorem acceptBcast_breg (reg data : Byte) (s : State) :
    (acceptBcast reg data s).breg = reg := rfl
@[simp] theorem acceptBcast_bdata (reg data : Byte) (s : State) :
    (acceptBcast reg data s).bdata = data := rfl
@[simp] theorem acceptBcast_sel (reg data : Byte) (s : State) :
    (acceptBcast reg data s).sel = s.sel := rfl
@[simp] theorem acceptBcast_fault (reg data : Byte) (s : State) :
    (acceptBcast reg data s).fault = s.fault := rfl
@[simp] theorem acceptBcast_trace (reg data : Byte) (s : State) :
    (acceptBcast reg data s).trace = s.trace := rfl
@[simp] theorem acceptBcast_configured (reg data : Byte) (s : State) :
    (acceptBcast reg data s).configured = s.configured := rfl
@[simp] theorem acceptBcast_idx (reg data : Byte) (s : State) :
    (acceptBcast reg data s).idx = s.idx := rfl
@[simp] theorem acceptBcast_waiting (reg data : Byte) (s : State) :
    (acceptBcast reg data s).waiting = s.waiting := rfl
@[simp] theorem acceptBcast_source (reg data : Byte) (s : State) :
    (acceptBcast reg data s).source = s.source := rfl
@[simp] theorem acceptBcast_chips (reg data : Byte) (s : State) :
    (acceptBcast reg data s).chips = s.chips := rfl
@[simp] theorem acceptBcast_cmd (reg data : Byte) (s : State) :
    (acceptBcast reg data s).cmd = none := rfl
@[simp] theorem acceptBcast_cmdIssuer (reg data : Byte) (s : State) :
    (acceptBcast reg data s).cmdIssuer = .other := rfl
@[simp] theorem acceptBcast_opIssuer (reg data : Byte) (s : State) :
    (acceptBcast reg data s).opIssuer = s.cmdIssuer := rfl
@[simp] theorem acceptBcast_fbWrite (reg data : Byte) (s : State) :
    (acceptBcast reg data s).fbWrite = s.fbWrite := rfl
@[simp] theorem acceptBcast_busDrive (reg data : Byte) (s : State) :
    (acceptBcast reg data s).busDrive = s.busDrive := rfl
@[simp] theorem acceptBcast_prog (reg data : Byte) (s : State) :
    (acceptBcast reg data s).prog = s.prog := rfl
@[simp] theorem acceptBcast_loopBody (reg data : Byte) (s : State) :
    (acceptBcast reg data s).loopBody = s.loopBody := rfl

@[simp] theorem assertSelect_cfg (s : State) :
    (assertSelect s).cfg = s.cfg := rfl
@[simp] theorem assertSelect_fb (s : State) :
    (assertSelect s).fb = s.fb := rfl
@[simp] theorem assertSelect_busy (s : State) :
    (assertSelect s).busy = s.busy := rfl
@[simp] theorem assertSelect_op (s : State) :
    (assertSelect s).op = s.op := rfl
@[simp] theorem assertSelect_r (s : State) :
    (assertSelect s).r = s.r := rfl
@[simp] theorem assertSelect_j (s : State) :
    (assertSelect s).j = s.j := rfl
@[simp] theorem assertSelect_breg (s : State) :
    (assertSelect s).breg = s.breg := rfl
@[simp] theorem assertSelect_bdata (s : State) :
    (assertSelect s).bdata = s.bdata := rfl
@[simp] theorem assertSelect_sel (s : State) :
    (assertSelect s).sel = true := rfl
@[simp] theorem assertSelect_fault (s : State) :
    (assertSelect s).fault = s.fault := rfl
@[simp] theorem assertSelect_trace (s : State) :
    (assertSelect s).trace = s.trace ++ [.sa] := rfl
@[simp] theorem assertSelect_configured (s : State) :
    (assertSelect s).configured = s.configured := rfl
@[simp] theorem assertSelect_idx (s : State) :
    (assertSelect s).idx = s.idx := rfl
@[simp] theorem assertSelect_waiting (s : State) :
    (assertSelect s).waiting = s.waiting := rfl
@[simp] theorem assertSelect_source (s : State) :
    (assertSelect s).source = s.source := rfl
@[simp] theorem assertSelect_chips (s : State) :
    (assertSelect s).chips = s.chips := rfl
@[simp] theorem assertSelect_cmd (s : State) :
    (assertSelect s).cmd = s.cmd := rfl
@[simp] theorem assertSelect_cmdIssuer (s : State) :
    (assertSelect s).cmdIssuer = s.cmdIssuer := rfl
@[simp] theorem assertSelect_opIssuer (s : State) :
    (assertSelect s).opIssuer = s.opIssuer := rfl
@[simp] theorem assertSelect_fbWrite (s : State) :
    (assertSelect s).fbWrite = s.fbWrite := rfl
@[simp] theorem assertSelect_busDrive (s : State) :
    (assertSelect s).busDrive = s.busDrive := rfl
@[simp] theorem assertSelect_prog (s : State) :
    (assertSelect s).prog = s.prog := rfl
@[simp] theorem assertSelect_loopBody (s : State) :
    (assertSelect s).loopBody = s.loopBody := rfl

@[simp] theorem shiftPair_cfg (p : ChipCommand) (s : State) :
    (shiftPair p s).cfg = s.cfg := rfl
@[simp] theorem shiftPair_fb (p : ChipCommand) (s : State) :
    (shiftPair p s).fb = s.fb := rfl
@[simp] theorem shiftPair_busy (p : ChipCommand) (s : State) :
    (shiftPair p s).busy = s.busy := rfl
@[simp] theorem shiftPair_op (p : ChipCommand) (s : State) :
    (shiftPair p s).op = s.op := rfl
@[simp] theorem shiftPair_r (p : ChipCommand) (s : State) :
    (shiftPair p s).r = s.r := rfl
@[simp] theorem shiftPair_j (p : ChipCommand) (s : State) :
    (shiftPair p s).j = s.j + 1 := rfl
@[simp] theorem shiftPair_breg (p : ChipCommand) (s : State) :
    (shiftPair p s).breg = s.breg := rfl
@[simp] theorem shiftPair_bdata (p : ChipCommand) (s : State) :
    (shiftPair p s).bdata = s.bdata := rfl
@[simp] theorem shiftPair_sel (p : ChipCommand) (s : State) :
    (shiftPair p s).sel = s.sel := rfl
@[simp] theorem shiftPair_fault (p : ChipCommand) (s : State) :
    (shiftPair p s).fault = s.fault := rfl
@[simp] theorem shiftPair_trace (p : ChipCommand) (s : State) :
    (shiftPair p s).trace = s.trace ++ [.w p] := rfl
@[simp] theorem shiftPair_configured (p : ChipCommand) (s : State) :
    (shiftPair p s).configured = s.configured := rfl
@[simp] theorem shiftPair_idx (p : ChipCommand) (s : State) :
    (shiftPair p s).idx = s.idx := rfl
@[simp] theorem shiftPair_waiting (p : ChipCommand) (s : State) :
    (shiftPair p s).waiting = s.waiting := rfl
@[simp] theorem shiftPair_source (p : ChipCommand) (s : State) :
    (shiftPair p s).source = s.source := rfl
@[simp] theorem shiftPair_chips (p : ChipCommand) (s : State) :
    (shiftPair p s).chips = shiftIn (some p) s.chips := rfl
@[simp] theorem shiftPair_cmd (p : ChipCommand) (s : State) :
    (shiftPair p s).cmd = s.cmd := rfl
@[simp] theorem shiftPair_cmdIssuer (p : ChipCommand) (s : State) :
    (shiftPair p s).cmdIssuer = s.cmdIssuer := rfl
@[simp] theorem shiftPair_opIssuer (p : ChipCommand) (s : State) :
    (shiftPair p s).opIssuer = s.opIssuer := rfl
@[simp] theorem shiftPair_fbWrite (p : ChipCommand) (s : State) :
    (shiftPair p s).fbWrite = s.fbWrite := rfl
@[simp] theorem shiftPair_busDrive (p : ChipCommand) (s : State) :
    (shiftPair p s).busDrive = s.busDrive := rfl
@[simp] theorem shiftPair_prog (p : ChipCommand) (s : State) :
    (shiftPair p s).prog = s.prog := rfl
@[simp] theorem shiftPair_loopBody (p : ChipCommand) (s : State) :
    (shiftPair p s).loopBody = s.loopBody := rfl

@[simp] theorem deassertSelect_cfg (s : State) :
    (deassertSelect s).cfg = s.cfg := rfl
@[simp] theorem deassertSelect_fb (s : State) :
    (deassertSelect s).fb = s.fb := rfl
@[simp] theorem deassertSelect_busy (s : State) :
    (deassertSelect s).busy = !lastTransaction s := rfl
@[simp] theorem deassertSelect_op (s : State) :
    (deassertSelect s).op = s.op := rfl
@[simp] theorem deassertSelect_r (s : State) :
    (deassertSelect s).r = if lastTransaction s then 0 else s.r + 1 := rfl
@[simp] theorem deassertSelect_j (s : State) :
    (deassertSelect s).j = 0 := rfl
@[simp] theorem deassertSelect_breg (s : State) :
    (deassertSelect s).breg = s.breg := rfl
@[simp] theorem deassertSelect_bdata (s : State) :
    (deassertSelect s).bdata = s.bdata := rfl
@[simp] theorem deassertSelect_sel (s : State) :
    (deassertSelect s).sel = false := rfl
@[simp] theorem deassertSelect_fault (s : State) :
    (deassertSelect s).fault = s.fault := rfl
@[simp] theorem deassertSelect_trace (s : State) :
    (deassertSelect s).trace = s.trace ++ [.sd] := rfl
@[simp] theorem deassertSelect_configured (s : State) :
    (deassertSelect s).configured = configuredAfterDeassert s := rfl
@[simp] theorem deassertSelect_idx (s : State) :
    (deassertSelect s).idx = s.idx := rfl
@[simp] theorem deassertSelect_waiting (s : State) :
    (deassertSelect s).waiting = (s.waiting && !lastTransaction s) := rfl
@[simp] theorem deassertSelect_source (s : State) :
    (deassertSelect s).source = s.source := rfl
@[simp] theorem deassertSelect_chips (s : State) :
    (deassertSelect s).chips = s.chips.map Chip.latch := rfl
@[simp] theorem deassertSelect_cmd (s : State) :
    (deassertSelect s).cmd = s.cmd := rfl
@[simp] theorem deassertSelect_cmdIssuer (s : State) :
    (deassertSelect s).cmdIssuer = s.cmdIssuer := rfl
@[simp] theorem deassertSelect_opIssuer (s : State) :
    (deassertSelect s).opIssuer = s.opIssuer := rfl
@[simp] theorem deassertSelect_fbWrite (s : State) :
    (deassertSelect s).fbWrite = s.fbWrite := rfl
@[simp] theorem deassertSelect_busDrive (s : State) :
    (deassertSelect s).busDrive = s.busDrive := rfl
@[simp] theorem deassertSelect_prog (s : State) :
    (deassertSelect s).prog = s.prog := rfl
@[simp] theorem deassertSelect_loopBody (s : State) :
    (deassertSelect s).loopBody = s.loopBody := rfl

@[simp] theorem pollNoData_cfg (s : State) :
    (pollNoData s).cfg = s.cfg := rfl
@[simp] theorem pollNoData_fb (s : State) :
    (pollNoData s).fb = s.fb := rfl
@[simp] theorem pollNoData_busy (s : State) :
    (pollNoData s).busy = s.busy := rfl
@[simp] theorem pollNoData_op (s : State) :
    (pollNoData s).op = s.op := rfl
@[simp] theorem pollNoData_r (s : State) :
    (pollNoData s).r = s.r := rfl
@[simp] theorem pollNoData_j (s : State) :
    (pollNoData s).j = s.j := rfl
@[simp] theorem pollNoData_breg (s : State) :
    (pollNoData s).breg = s.breg := rfl
@[simp] theorem pollNoData_bdata (s : State) :
    (pollNoData s).bdata = s.bdata := rfl
@[simp] theorem pollNoData_sel (s : State) :
    (pollNoData s).sel = s.sel := rfl
@[simp] theorem pollNoData_fault (s : State) :
    (pollNoData s).fault = s.fault := rfl
@[simp] theorem pollNoData_trace (s : State) :
    (pollNoData s).trace = s.trace := rfl
@[simp] theorem pollNoData_configured (s : State) :
    (pollNoData s).configured = s.configured := rfl
@[simp] theorem pollNoData_idx (s : State) :
    (pollNoData s).idx = s.idx := rfl
@[simp] theorem pollNoData_waiting (s : State) :
    (pollNoData s).waiting = s.waiting := rfl
@[simp] theorem pollNoData_source (s : State) :
    (pollNoData s).source = s.source.afterNoData := rfl
@[simp] theorem pollNoData_chips (s : State) :
    (pollNoData s).chips = s.chips := rfl
@[simp] theorem pollNoData_cmd (s : State) :
    (pollNoData s).cmd = s.cmd := rfl
@[simp] theorem pollNoData_cmdIssuer (s : State) :
    (pollNoData s).cmdIssuer = s.cmdIssuer := rfl
@[simp] theorem pollNoData_opIssuer (s : State) :
    (pollNoData s).opIssuer = s.opIssuer := rfl
@[simp] theorem pollNoData_fbWrite (s : State) :
    (pollNoData s).fbWrite = s.fbWrite := rfl
@[simp] theorem pollNoData_busDrive (s : State) :
    (pollNoData s).busDrive = s.busDrive := rfl
@[simp] theorem pollNoData_prog (s : State) :
    (pollNoData s).prog = s.prog := rfl
@[simp] theorem pollNoData_loopBody (s : State) :
    (pollNoData s).loopBody = s.loopBody := rfl

@[simp] theorem pollByte_cfg (b : Byte) (s : State) :
    (pollByte b s).cfg = s.cfg := rfl
@[simp] theorem pollByte_fb (b : Byte) (s : State) :
    (pollByte b s).fb = Memory.write s.fb s.idx b := rfl
@[simp] theorem pollByte_busy (b : Byte) (s : State) :
    (pollByte b s).busy = s.busy := rfl
@[simp] theorem pollByte_op (b : Byte) (s : State) :
    (pollByte b s).op = s.op := rfl
@[simp] theorem pollByte_r (b : Byte) (s : State) :
    (pollByte b s).r = s.r := rfl
@[simp] theorem pollByte_j (b : Byte) (s : State) :
    (pollByte b s).j = s.j := rfl
@[simp] theorem pollByte_breg (b : Byte) (s : State) :
    (pollByte b s).breg = s.breg := rfl
@[simp] theorem pollByte_bdata (b : Byte) (s : State) :
    (pollByte b s).bdata = s.bdata := rfl
@[simp] theorem pollByte_sel (b : Byte) (s : State) :
    (pollByte b s).sel = s.sel := rfl
@[simp] theorem pollByte_fault (b : Byte) (s : State) :
    (pollByte b s).fault = s.fault := rfl
@[simp] theorem pollByte_trace (b : Byte) (s : State) :
    (pollByte b s).trace = s.trace := rfl
@[simp] theorem pollByte_configured (b : Byte) (s : State) :
    (pollByte b s).configured = s.configured := rfl
@[simp] theorem pollByte_idx (b : Byte) (s : State) :
    (pollByte b s).idx = if completesFrame s then 0 else s.idx + 1 := rfl
@[simp] theorem pollByte_waiting (b : Byte) (s : State) :
    (pollByte b s).waiting = (s.waiting || completesFrame s) := rfl
@[simp] theorem pollByte_source (b : Byte) (s : State) :
    (pollByte b s).source = s.source.afterByte := rfl
@[simp] theorem pollByte_chips (b : Byte) (s : State) :
    (pollByte b s).chips = s.chips := rfl
@[simp] theorem pollByte_cmd (b : Byte) (s : State) :
    (pollByte b s).cmd = if completesFrame s then some renderWord else s.cmd := rfl
@[simp] theorem pollByte_cmdIssuer (b : Byte) (s : State) :
    (pollByte b s).cmdIssuer = if completesFrame s then .assembler else s.cmdIssuer := rfl
@[simp] theorem pollByte_opIssuer (b : Byte) (s : State) :
    (pollByte b s).opIssuer = s.opIssuer := rfl
@[simp] theorem pollByte_fbWrite (b : Byte) (s : State) :
    (pollByte b s).fbWrite = s.fbWrite := rfl
@[simp] theorem pollByte_busDrive (b : Byte) (s : State) :
    (pollByte b s).busDrive = s.busDrive := rfl
@[simp] theorem pollByte_prog (b : Byte) (s : State) :
    (pollByte b s).prog = if completesFrame s then afterFrame s.loopBody (currentLines s) else s.prog := rfl
@[simp] theorem pollByte_loopBody (b : Byte) (s : State) :
    (pollByte b s).loopBody = s.loopBody := rfl

@[simp] theorem presentLine_cfg (w : CmdWord) (rest : List EnvLine) (s : State) :
    (presentLine w rest s).cfg = s.cfg := rfl
@[simp] theorem presentLine_fb (w : CmdWord) (rest : List EnvLine) (s : State) :
    (presentLine w rest s).fb = s.fb := rfl
@[simp] theorem presentLine_busy (w : CmdWord) (rest : List EnvLine) (s : State) :
    (presentLine w rest s).busy = s.busy := rfl
@[simp] theorem presentLine_op (w : CmdWord) (rest : List EnvLine) (s : State) :
    (presentLine w rest s).op = s.op := rfl
@[simp] theorem presentLine_r (w : CmdWord) (rest : List EnvLine) (s : State) :
    (presentLine w rest s).r = s.r := rfl
@[simp] theorem presentLine_j (w : CmdWord) (rest : List EnvLine) (s : State) :
    (presentLine w rest s).j = s.j := rfl
@[simp] theorem presentLine_breg (w : CmdWord) (rest : List EnvLine) (s : State) :
    (presentLine w rest s).breg = s.breg := rfl
@[simp] theorem presentLine_bdata (w : CmdWord) (rest : List EnvLine) (s : State) :
    (presentLine w rest s).bdata = s.bdata := rfl
@[simp] theorem presentLine_sel (w : CmdWord) (rest : List EnvLine) (s : State) :
    (presentLine w rest s).sel = s.sel := rfl
@[simp] theorem presentLine_fault (w : CmdWord) (rest : List EnvLine) (s : State) :
    (presentLine w rest s).fault = s.fault := rfl
@[simp] theorem presentLine_trace (w : CmdWord) (rest : List EnvLine) (s : State) :
    (presentLine w rest s).trace = s.trace := rfl
@[simp] theorem presentLine_configured (w : CmdWord) (rest : List EnvLine) (s : State) :
    (presentLine w rest s).configured = s.configured := rfl
@[simp] theorem presentLine_idx (w : CmdWord) (rest : List EnvLine) (s : State) :
    (presentLine w rest s).idx = s.idx := rfl
@[simp] theorem presentLine_waiting (w : CmdWord) (rest : List EnvLine) (s : State) :
    (presentLine w rest s).waiting = s.waiting := rfl
@[simp] theorem presentLine_source (w : CmdWord) (rest : List EnvLine) (s : State) :
    (presentLine w rest s).source = s.source := rfl
@[simp] theorem presentLine_chips (w : CmdWord) (rest : List EnvLine) (s : State) :
    (presentLine w rest s).chips = s.chips := rfl
@[simp] theorem presentLine_cmd (w : CmdWord) (rest : List EnvLine) (s : State) :
    (presentLine w rest s).cmd = some w := rfl
@[simp] theorem presentLine_cmdIssuer (w : CmdWord) (rest : List EnvLine) (s : State) :
    (presentLine w rest s).cmdIssuer = .other := rfl
@[simp] theorem presentLine_opIssuer (w : CmdWord) (rest : List EnvLine) (s : State) :
    (presentLine w rest s).opIssuer = s.opIssuer := rfl
@[simp] theorem presentLine_fbWrite (w : CmdWord) (rest : List EnvLine) (s : State) :
    (presentLine w rest s).fbWrite = s.fbWrite := rfl
@[simp] theorem presentLine_busDrive (w : CmdWord) (rest : List EnvLine) (s : State) :
    (presentLine w rest s).busDrive = s.busDrive := rfl
@[simp] theorem presentLine_prog (w : CmdWord) (rest : List EnvLine) (s : State) :
    (presentLine w rest s).prog = rest := rfl
@[simp] theorem presentLine_loopBody (w : CmdWord) (rest : List EnvLine) (s : State) :
    (presentLine w rest s).loopBody = s.loopBody := rfl

@[simp] theorem ByteSource.afterNoData_stream (h : ByteSource) :
    h.afterNoData.stream = h.stream := rfl
@[simp] theorem ByteSource.afterNoData_endless (h : ByteSource) :
    h.afterNoData.endless = h.endless := rfl
@[simp] theorem ByteSource.afterNoData_consumed (h : ByteSource) :
    h.afterNoData.consumed = h.consumed := rfl
@[simp] theorem ByteSource.afterNoData_arrivals (h : ByteSource) :
    h.afterNoData.arrivals = h.arrivals := rfl
@[simp] theorem ByteSource.afterNoData_polls (h : ByteSource) :
    h.afterNoData.polls = h.polls + 1 := rfl
@[simp] theorem ByteSource.afterNoData_byteAt (h : ByteSource) (n : Nat) :
    h.afterNoData.byteAt n = h.byteAt n := rfl

@[simp] theorem ByteSource.afterByte_stream (h : ByteSource) :
    h.afterByte.stream = h.stream := rfl
@[simp] theorem ByteSource.afterByte_endless (h : ByteSource) :
    h.afterByte.endless = h.endless := rfl
@[simp] theorem ByteSource.afterByte_consumed (h : ByteSource) :
    h.afterByte.consumed = h.consumed + 1 := rfl
@[simp] theorem ByteSource.afterByte_arrivals (h : ByteSource) :
    h.afterByte.arrivals = h.arrivals.tail := rfl
@[simp] theorem ByteSource.afterByte_polls (h : ByteSource) :
    h.afterByte.polls = h.polls + 1 := rfl
@[simp] theorem ByteSource.afterByte_byteAt (h : ByteSource) (n : Nat) :
    h.afterByte.byteAt n = h.byteAt n := rfl

end Sys2Proof.Machine
end

