-- ==== Sys2Proof/Laws/Ops.lean ====
section
/-!
SUPPORT. One lemma per shared operation that says once everything it can do, and the inversion of a step:
if a step answers a next state, one of a few named updates gave it.
-/

namespace Sys2Proof.Machine

@[simp] theorem unlessFaulted_none {s : State} (h : s.fault = none) (k : Result) :
    unlessFaulted s k = k := by simp [unlessFaulted, h]

@[simp] theorem unlessFaulted_some {s : State} {f : FaultReason} (h : s.fault = some f) (k : Result) :
    unlessFaulted s k = .fault (.halted f) := by simp [unlessFaulted, h]

/-- What a presented operation can do. -/
theorem present_next {accepted : State → State} {s t : State} (h : present accepted s = .next t) :
    s.fault = none ∧ ((s.busy = true ∧ t = s) ∨ (s.busy = false ∧ t = accepted s)) := by
  unfold present unlessFaulted at h
  split at h
  · cases h
  · refine ⟨‹_›, ?_⟩
    cases hb : s.busy <;> simp_all

/-- What a pair on the bus can do. -/
theorem busWrite_next {p : ChipCommand} {s t : State} (h : busWrite p s = .next t) :
    s.fault = none ∧
      ((s.busy = true ∧ ∃ f, breach s = some f ∧ t = raiseFault f s) ∨
       (s.busy = true ∧ txPair s = some p ∧ t = shiftPair p s) ∨
       (s.busy = true ∧ breach s = none ∧ txPair s ≠ some p ∧ t = raiseFault .busTouchedByOther s) ∨
       (s.busy = false ∧ t = { s with chips := react (.w p) s.chips })) := by
  unfold busWrite unlessFaulted at h
  split at h
  · cases h
  · refine ⟨‹_›, ?_⟩
    cases hb : s.busy <;> simp_all
    split at h <;> simp_all
    split_ifs at h <;> simp_all

/-- A pair on the bus of a busy block whose inputs break no contract. -/
theorem busWrite_busy {p : ChipCommand} {s : State} (hf : s.fault = none) (hb : s.busy = true)
    (hq : breach s = none) :
    busWrite p s =
      .next (if txPair s = some p then shiftPair p s else raiseFault .busTouchedByOther s) := by
  simp [busWrite, hf, hb, hq]

/-- A pair is written in the same way whether or not the opcode table names its register. -/
theorem writePair_eq_busWrite (p : ChipCommand) (s : State) : writePair p s = busWrite p s := by
  obtain ⟨reg, data⟩ := p
  unfold writePair decodePair
  have named : ∀ n : Nat, reg.toNat = n → reg = BitVec.ofNat 8 n := fun n h => by
    rw [← h]; simp
  dsimp only
  split
  · rename_i i hi
    split at hi <;> first
      | (cases hi; rename_i h; rw [named _ h]; rfl)
      | cases hi
  · rfl

/-- The pair a busy block writes is its own. -/
theorem txPair_open {s : State} (hf : s.fault = none) (hq : breach s = none) (hb : s.busy = true)
    (hs : s.sel = true) (hj : s.j < s.cfg.modules) : txPair s = some (slotPair s) := by
  simp [txPair, undisturbed, slotOpen, hf, hq, hb, hs, hj]

/-- Everything the step of a busy block can do. -/
theorem blockStep_next {s t : State} (hb : s.busy = true) (hf : s.fault = none)
    (hq : breach s = none) (h : blockStep s = .next t) :
    (s.sel = false ∧ t = assertSelect s) ∨
    (s.sel = true ∧ s.j < s.cfg.modules ∧ t = shiftPair (slotPair s) s) ∨
    (s.sel = true ∧ s.j = s.cfg.modules ∧ t = deassertSelect s) := by
  unfold blockStep at h
  rw [writePair_eq_busWrite] at h
  split_ifs at h with h1 h2 h3
  · exact .inl ⟨h1, by simpa using h.symm⟩
  · have hs : s.sel = true := by simpa using h1
    refine .inr (.inl ⟨hs, h2, ?_⟩)
    simpa [busWrite_busy hf hb hq, txPair_open hf hq hb hs h2] using h.symm
  · exact .inr (.inr ⟨by simpa using h1, h3, by simpa using h.symm⟩)

/-- What the acceptance of a command word by an idle block is. -/
theorem exec_decodeCmd {w : CmdWord} {s : State} (hf : s.fault = none) (hb : s.busy = false) :
    exec (decodeCmd w) s =
      .next (if w.getLsbD 16 then acceptBcast (w.extractLsb' 8 8) (w.extractLsb' 0 8) s
        else acceptRender s) := by
  unfold decodeCmd
  generalize w.getLsbD 16 = opc
  cases opc <;> simp [exec, execRender, execBcast, present, hf, hb]

/-- The named updates a step can make. -/
inductive StepCase (s : State) : State → Prop where
  /-- A contract is broken (R145). -/
  | breached {f : FaultReason} (h : breach s = some f) : StepCase s (raiseFault f s)
  /-- `ASSERT` (R93). -/
  | assert (hb : s.busy = true) (hs : s.sel = false) : StepCase s (assertSelect s)
  /-- `SHIFT_ROW`, `SHIFT_BCAST` (R94, R117). -/
  | shift (hb : s.busy = true) (hs : s.sel = true) (hj : s.j < s.cfg.modules) :
      StepCase s (shiftPair (slotPair s) s)
  /-- `DEASSERT` (R95). -/
  | deassert (hb : s.busy = true) (hs : s.sel = true) (hj : s.j = s.cfg.modules) :
      StepCase s (deassertSelect s)
  /-- `ACCEPT_RENDER` (R91) of the word held on the port. -/
  | acceptRender {w : CmdWord} (hb : s.busy = false) (hc : s.cmd = some w)
      (hw : w.getLsbD 16 = false) : StepCase s (acceptRender s)
  /-- `ACCEPT_BCAST` (R116) of the word held on the port. -/
  | acceptBcast {w : CmdWord} (hb : s.busy = false) (hc : s.cmd = some w)
      (hw : w.getLsbD 16 = true) :
      StepCase s (acceptBcast (w.extractLsb' 8 8) (w.extractLsb' 0 8) s)
  /-- `ACCEPT_RENDER` of a line that the boot code presents (R86). -/
  | lineRender {w : CmdWord} {rest : List EnvLine} (hb : s.busy = false) (hc : s.cmd = none)
      (hn : s.waiting = false) (hl : currentLines s = .command w :: rest)
      (hw : w.getLsbD 16 = false) : StepCase s (acceptRender (presentLine w rest s))
  /-- `ACCEPT_BCAST` of a line that the boot code presents (R86). -/
  | lineBcast {w : CmdWord} {rest : List EnvLine} (hb : s.busy = false) (hc : s.cmd = none)
      (hn : s.waiting = false) (hl : currentLines s = .command w :: rest)
      (hw : w.getLsbD 16 = true) :
      StepCase s (acceptBcast (w.extractLsb' 8 8) (w.extractLsb' 0 8) (presentLine w rest s))
  /-- `POLL_NODATA` (R127). -/
  | noData (hb : s.busy = false) (hc : s.cmd = none) (hn : s.waiting = false)
      (hl : ∀ w rest, currentLines s ≠ .command w :: rest) (hp : s.source.poll = none) :
      StepCase s (pollNoData s)
  /-- `POLL_BYTE` (R128). -/
  | byte {b : Byte} (hb : s.busy = false) (hc : s.cmd = none) (hn : s.waiting = false)
      (hl : ∀ w rest, currentLines s ≠ .command w :: rest) (hp : s.source.poll = some b) :
      StepCase s (pollByte b s)

/-- Everything a poll can do. -/
theorem pollStep_case {s : State} (hb : s.busy = false) (hc : s.cmd = none)
    (hn : s.waiting = false) (hl : ∀ w rest, currentLines s ≠ .command w :: rest) :
    StepCase s (pollStep s) := by
  unfold pollStep
  split
  · exact .noData hb hc hn hl ‹_›
  · exact .byte hb hc hn hl ‹_›

/-- Everything the step of an idle block can do. -/
theorem idleStep_next {s t : State} (hf : s.fault = none) (hb : s.busy = false)
    (h : idleStep s = .next t) : StepCase s t := by
  unfold idleStep at h
  split at h
  · rename_i w hc
    rw [exec_decodeCmd hf hb] at h
    cases hw : w.getLsbD 16 <;> simp only [hw, Bool.false_eq_true, if_true, if_false,
      Host.Outcome.next.injEq] at h <;> subst h
    · exact .acceptRender hb hc hw
    · exact .acceptBcast hb hc hw
  · rename_i hc
    split_ifs at h with hn
    have hn : s.waiting = false := by simpa using hn
    unfold envStep at h
    split at h
    · rename_i w rest hl
      rw [exec_decodeCmd (s := presentLine w rest s) hf hb] at h
      cases hw : w.getLsbD 16 <;> simp only [hw, Bool.false_eq_true, if_true, if_false,
        Host.Outcome.next.injEq] at h <;> subst h
      · exact .lineRender hb hc hn hl hw
      · exact .lineBcast hb hc hn hl hw
    all_goals
      rename_i hl
      obtain rfl : pollStep s = t := by simpa using h
      exact pollStep_case hb hc hn (by simp [hl])

/-- Everything a step can do. -/
theorem step_next {s t : State} (h : step s = .next t) : s.fault = none ∧ StepCase s t := by
  unfold step advance unlessFaulted at h
  split at h
  · cases h
  rename_i hf
  refine ⟨hf, ?_⟩
  split at h
  · rename_i f hbr
    obtain rfl : raiseFault f s = t := by simpa using h
    exact .breached hbr
  · rename_i hq
    split_ifs at h with hb
    · obtain ⟨hs, rfl⟩ | ⟨hs, hj, rfl⟩ | ⟨hs, hj, rfl⟩ := blockStep_next hb hf hq h
      · exact .assert hb hs
      · exact .shift hb hs hj
      · exact .deassert hb hs hj
    · exact idleStep_next hf (by simpa using hb) h

/-- A broken contract: the block is busy. -/
theorem busy_of_breach {s : State} {f : FaultReason} (h : breach s = some f) : s.busy = true := by
  by_contra hb
  simp [breach, hb] at h

/-- No step touches what another agent drives, nor a parameter. -/
theorem step_inputs {s t : State} (h : step s = .next t) :
    t.fbWrite = s.fbWrite ∧ t.busDrive = s.busDrive ∧ t.cfg = s.cfg := by
  obtain ⟨-, hc⟩ := step_next h
  cases hc <;> simp

/-- A poll answers no data or the next byte. -/
theorem poll_eq_none_or_nextByte (h : ByteSource) : h.poll = none ∨ h.poll = h.nextByte := by
  unfold ByteSource.poll
  split
  · split_ifs <;> simp_all
  · exact .inl rfl

/-- A byte that is there is delivered to every poll from the due one on. -/
theorem poll_of_due {h : ByteSource} {b : Byte} (hb : h.nextByte = some b) (hd : h.due ≤ h.polls) :
    h.poll = some b := by
  simp [ByteSource.poll, hb, Nat.not_lt.2 hd]

/-- Polls that answer no data advance the number of the next poll and change nothing else. -/
theorem repeat_afterNoData (h : ByteSource) (n : Nat) :
    Nat.repeat ByteSource.afterNoData n h = { h with polls := h.polls + n } := by
  induction n with
  | zero => rfl
  | succ n ih => rw [Nat.repeat, ih]; rfl

/-- What a step does to the byte source: the stream stays, and a byte it takes is the next one, stored at `idx`. -/
theorem step_source {s t : State} (h : step s = .next t) :
    t.source.stream = s.source.stream ∧ t.source.endless = s.source.endless ∧
      (t.source.consumed = s.source.consumed ∨
        (t.source.consumed = s.source.consumed + 1 ∧
          s.source.nextByte = some (Memory.read t.fb s.idx))) := by
  obtain ⟨-, hc⟩ := step_next h
  cases hc with
  | byte hb hc hn hl hp =>
    refine ⟨rfl, rfl, .inr ⟨rfl, ?_⟩⟩
    obtain h0 | h0 := poll_eq_none_or_nextByte s.source
    · simp [h0] at hp
    · simp [← h0, hp, Memory.read_write]
  | _ => exact ⟨rfl, rfl, .inl rfl⟩

/-- What a step does to the trace and the chain: nothing, or one event with the chain's reaction to it. -/
theorem step_event {s t : State} (h : step s = .next t) :
    (t.trace = s.trace ∧ t.chips = s.chips) ∨
      ∃ e, t.trace = s.trace ++ [e] ∧ t.chips = react e s.chips := by
  obtain ⟨-, hc⟩ := step_next h
  cases hc with
  | assert | shift | deassert => exact .inr ⟨_, rfl, rfl⟩
  | _ => exact .inl ⟨rfl, rfl⟩

end Sys2Proof.Machine
end

