-- ==== Sys2Proof/Laws/PerInstr.lean ====
section
/-!
SUPPORT. The family EncodingFitsTable: of the rows of spec/opcode_table.json, exactly the instruction's own
row fits the word that encodes it, whatever its operands.
-/

namespace Sys2Proof.Laws

/-- Exactly the row with the instruction's mnemonic fits its encoding. -/
def EncodingFitsTable.Statement (i : Instr) : Prop :=
  ∀ row ∈ opcodeTable, row.fits (encode i) = decide (row.mnemonic = i.mnemonic)

theorem EncodingFitsTable.render : EncodingFitsTable.Statement .render := by
  unfold EncodingFitsTable.Statement; decide

theorem EncodingFitsTable.bcast (reg data : Byte) :
    EncodingFitsTable.Statement (.bcast reg data) := by
  intro row hrow
  simp only [opcodeTable, List.cons_append, List.nil_append, List.mem_cons, List.not_mem_nil, or_false] at hrow
  rcases hrow with rfl | rfl | rfl | rfl | rfl | rfl | rfl | rfl | rfl | rfl <;>
    simp [OpcodeRow.fits, encode, InstrWord.format, InstrWord.toNat, mask_bcastWord, Instr.mnemonic]

/-- The shape of the eight row commands. -/
theorem fits_rowCommand (p : ChipCommand) (row : OpcodeRow) (hrow : row ∈ opcodeTable) :
    row.fits (.crc (wordOfPair p)) =
      (decide (row.format = .crc) && decide (p.reg.toNat * 256 = row.pattern)) := by
  simp only [opcodeTable, List.cons_append, List.nil_append, List.mem_cons, List.not_mem_nil, or_false] at hrow
  rcases hrow with rfl | rfl | rfl | rfl | rfl | rfl | rfl | rfl | rfl | rfl <;>
    first
      | exact fits_wordOfPair _ p rfl
      | simp [OpcodeRow.fits, InstrWord.format]

/-- Register number `n` in `1..8` is the pattern of the row `ROWn` and of no other. -/
theorem pattern_rowCommand : ∀ x ∈ [(1#8, "ROW1"), (2#8, "ROW2"), (3#8, "ROW3"), (4#8, "ROW4"),
    (5#8, "ROW5"), (6#8, "ROW6"), (7#8, "ROW7"), (8#8, "ROW8")], ∀ row ∈ opcodeTable,
    (decide (row.format = .crc) && decide (x.1.toNat * 256 = row.pattern)) =
      decide (row.mnemonic = x.2) := by decide

theorem EncodingFitsTable.row1 (data : Byte) : EncodingFitsTable.Statement (.row1 data) :=
  fun row h => (fits_rowCommand ⟨1#8, data⟩ row h).trans
    (pattern_rowCommand (1#8, "ROW1") (by decide) row h)

theorem EncodingFitsTable.row2 (data : Byte) : EncodingFitsTable.Statement (.row2 data) :=
  fun row h => (fits_rowCommand ⟨2#8, data⟩ row h).trans
    (pattern_rowCommand (2#8, "ROW2") (by decide) row h)

theorem EncodingFitsTable.row3 (data : Byte) : EncodingFitsTable.Statement (.row3 data) :=
  fun row h => (fits_rowCommand ⟨3#8, data⟩ row h).trans
    (pattern_rowCommand (3#8, "ROW3") (by decide) row h)

theorem EncodingFitsTable.row4 (data : Byte) : EncodingFitsTable.Statement (.row4 data) :=
  fun row h => (fits_rowCommand ⟨4#8, data⟩ row h).trans
    (pattern_rowCommand (4#8, "ROW4") (by decide) row h)

theorem EncodingFitsTable.row5 (data : Byte) : EncodingFitsTable.Statement (.row5 data) :=
  fun row h => (fits_rowCommand ⟨5#8, data⟩ row h).trans
    (pattern_rowCommand (5#8, "ROW5") (by decide) row h)

theorem EncodingFitsTable.row6 (data : Byte) : EncodingFitsTable.Statement (.row6 data) :=
  fun row h => (fits_rowCommand ⟨6#8, data⟩ row h).trans
    (pattern_rowCommand (6#8, "ROW6") (by decide) row h)

theorem EncodingFitsTable.row7 (data : Byte) : EncodingFitsTable.Statement (.row7 data) :=
  fun row h => (fits_rowCommand ⟨7#8, data⟩ row h).trans
    (pattern_rowCommand (7#8, "ROW7") (by decide) row h)

theorem EncodingFitsTable.row8 (data : Byte) : EncodingFitsTable.Statement (.row8 data) :=
  fun row h => (fits_rowCommand ⟨8#8, data⟩ row h).trans
    (pattern_rowCommand (8#8, "ROW8") (by decide) row h)

end Sys2Proof.Laws
end

