-- ==== Sys2Proof/Laws/Steps.lean ====
section
/-!
SUPPORT. The step of each kind of state as the named update it makes, and runs of several steps.
-/

namespace Sys2Proof.Machine

open Sys2Proof.Safety

@[simp] theorem runFor_one (s : State) : runFor 1 s = step s := by
  simp only [runFor]; split <;> simp_all

/-- A run in two parts. -/
theorem runFor_add {m n : Nat} {s t : State} (h : runFor m s = .next t) :
    runFor (m + n) s = runFor n t := by
  induction m generalizing s with
  | zero => simp only [runFor, Host.Outcome.next.injEq] at h; simp [h]
  | succ m ih =>
    rw [show m + 1 + n = (m + n) + 1 by omega]
    simp only [runFor] at h ⊢
    split at h
    · exact ih h
    · cases h
    · cases h

/-- What every step keeps, a run keeps. -/
theorem runFor_keeps {P : State → Prop} (hP : ∀ u v, P u → step u = .next v → P v) {n : Nat}
    {s t : State} (h : runFor n s = .next t) (hs : P s) : P t := by
  induction n generalizing s with
  | zero => simp only [runFor, Host.Outcome.next.injEq] at h; exact h ▸ hs
  | succ n ih =>
    simp only [runFor] at h
    split at h
    · exact ih h (hP _ _ hs ‹_›)
    · cases h
    · cases h

/-- The other agents' inputs and the parameters stay through a run. -/
theorem runFor_inputs {n : Nat} {s t : State} (h : runFor n s = .next t) :
    t.fbWrite = s.fbWrite ∧ t.busDrive = s.busDrive ∧ t.cfg = s.cfg :=
  runFor_keeps (P := fun u => u.fbWrite = s.fbWrite ∧ u.busDrive = s.busDrive ∧ u.cfg = s.cfg)
    (fun _ _ ⟨h1, h2, h3⟩ h =>
      let ⟨k1, k2, k3⟩ := step_inputs h
      ⟨k1.trans h1, k2.trans h2, k3.trans h3⟩)
    h ⟨rfl, rfl, rfl⟩

/-- The stream stays through a run. -/
theorem runFor_stream {n : Nat} {s t : State} (h : runFor n s = .next t) :
    t.source.stream = s.source.stream ∧ t.source.endless = s.source.endless :=
  runFor_keeps (P := fun u => u.source.stream = s.source.stream ∧ u.source.endless = s.source.endless)
    (fun _ _ ⟨h1, h2⟩ h =>
      let ⟨k1, k2, _⟩ := step_source h
      ⟨k1.trans h1, k2.trans h2⟩)
    h ⟨rfl, rfl⟩

/-- Where no other agent drives anything, the premises on other agents hold. -/
theorem disciplined_of_quiet {s : State} (h1 : s.fbWrite = none) (h2 : s.busDrive = none) :
    Disciplined s :=
  ⟨fun _ _ h _ => (runFor_inputs h).1.trans h1, fun _ _ h _ => (runFor_inputs h).2.1.trans h2⟩

/-- A busy block in a disciplined run: no other agent drives anything. -/
theorem quiet_of_disciplined {s : State} (h : Disciplined s) (hb : s.busy = true) :
    s.fbWrite = none ∧ s.busDrive = none :=
  ⟨h.1 0 s rfl hb, h.2 0 s rfl hb⟩

/-- A run that makes the block busy, in a disciplined run: no other agent drives anything. -/
theorem quiet_of_disciplined_run {n : Nat} {s t : State} (h : Disciplined s)
    (hr : runFor n s = .next t) (hb : t.busy = true) : s.fbWrite = none ∧ s.busDrive = none :=
  ⟨(runFor_inputs hr).1 ▸ h.1 n t hr hb, (runFor_inputs hr).2.1 ▸ h.2 n t hr hb⟩

theorem breach_of_idle {s : State} (hb : s.busy = false) : breach s = none := by
  simp [breach, hb]

theorem breach_of_disciplined {s : State} (h : Disciplined s) : breach s = none := by
  cases hb : s.busy
  · exact breach_of_idle hb
  · simp [breach, quiet_of_disciplined h hb]

/-- The step of a busy block that no held input disturbs. -/
theorem step_of_busy {s : State} (hf : s.fault = none) (hq : breach s = none)
    (hb : s.busy = true) : step s = blockStep s := by
  simp [step, advance, unlessFaulted_none hf, hq, hb]

/-- The step of an idle block. -/
theorem step_of_idle {s : State} (hf : s.fault = none) (hb : s.busy = false) :
    step s = idleStep s := by
  simp [step, advance, unlessFaulted_none hf, breach_of_idle hb, hb]

/-- The step of an idle block with a command held on its port is the acceptance. -/
theorem step_of_command {s : State} {w : CmdWord} (hf : s.fault = none) (hb : s.busy = false)
    (hc : s.cmd = some w) : step s = exec (decodeCmd w) s := by
  rw [step_of_idle hf hb]; simp [idleStep, hc]

/-- The step of an idle machine whose next line is a command is its acceptance. -/
theorem step_of_line {s : State} {w : CmdWord} {rest : List EnvLine} (hf : s.fault = none)
    (hb : s.busy = false) (hn : s.waiting = false) (hc : s.cmd = none)
    (hl : currentLines s = .command w :: rest) :
    step s = exec (decodeCmd w) (presentLine w rest s) := by
  rw [step_of_idle hf hb]; simp [idleStep, hc, hn, envStep, hl]

/-- The step in an open window with a slot left. -/
theorem step_in_slot {s : State} (hf : s.fault = none) (hq : breach s = none)
    (hb : s.busy = true) (hs : s.sel = true) (hj : s.j < s.cfg.modules) :
    step s = .next (shiftPair (slotPair s) s) := by
  rw [step_of_busy hf hq hb, blockStep, writePair_eq_busWrite]
  simp [hs, hj, busWrite_busy hf hb hq, txPair_open hf hq hb hs hj]

/-- The step in an open window with no slot left. -/
theorem step_after_slots {s : State} (hf : s.fault = none) (hq : breach s = none)
    (hb : s.busy = true) (hs : s.sel = true) (hj : s.j = s.cfg.modules) :
    step s = .next (deassertSelect s) := by
  rw [step_of_busy hf hq hb, blockStep]
  simp [hs, hj]

/-- The step of the Frame Assembler in its turn. -/
theorem step_of_assembler {s : State} (h : AssemblerTurn s) : step s = .next (pollStep s) := by
  obtain ⟨hf, hb, hw, hc, hl⟩ := h
  rw [step_of_idle hf hb]
  simp only [idleStep, hc, hw, Bool.false_eq_true, if_false, envStep]
  split
  · exact absurd ‹_› (hl _ _)
  · rfl
  · rfl

/-- The register number of a row as the rules write it. -/
theorem rowReg_eq_succ (r : BitVec 3) : rowReg r = BitVec.ofNat 8 (r.toNat + 1) := by
  revert r; decide

/-- A trace with one more event. -/
theorem scanTrace_concat (m : Nat) (t : List BusEvent) (e : BusEvent) :
    scanTrace m (t ++ [e]) = scanEvent m (scanTrace m t) e := by simp [scanTrace]

/-- A chain after two sequences of events. -/
theorem reactAll_append (cs : List Chip) (a b : List BusEvent) :
    reactAll cs (a ++ b) = reactAll (reactAll cs a) b := by simp [reactAll]

/-- The chain has reacted to what a run has emitted. -/
theorem runFor_events {n : Nat} {s t : State} (h : runFor n s = .next t) :
    ∃ events, t.trace = s.trace ++ events ∧ t.chips = reactAll s.chips events :=
  runFor_keeps
    (P := fun u => ∃ events, u.trace = s.trace ++ events ∧ u.chips = reactAll s.chips events)
    (fun u v ⟨es, h1, h2⟩ h => by
      obtain ⟨k1, k2⟩ | ⟨e, k1, k2⟩ := step_event h
      · exact ⟨es, k1.trans h1, k2.trans h2⟩
      · exact ⟨es ++ [e], by simp [k1, h1], by rw [k2, h2, reactAll_append]; rfl⟩)
    h ⟨[], by simp, rfl⟩

end Sys2Proof.Machine
end

