-- ==== Sys2Proof/Tests/Slice0.lean ====
section
/-!
SUPPORT. Tests, each with the place of spec/ that its expected result comes from, and the witnesses of the
hypotheses of the statements in Sys2Proof/Certificates/Slice0/Obligations.lean.
-/

namespace Sys2Proof.Tests

open Sys2Proof.Machine Sys2Proof.Safety

/-! ## Helpers -/

/-- A configuration with `lastModule + 1` chips and, for the open parameters, the assumed values of
spec/93_implementation_defined.md G1 (orientation only; every statement holds for all values). -/
def config (lastModule : Nat) : Config where
  lastModule := lastModule
  chainLength := lastModule + 1
  regTest := 15#8
  regDecode := 9#8
  regScanLimit := 11#8
  regShutdown := 12#8
  regIntensity := 10#8
  valTestOff := 0#8
  valDecodeOff := 0#8
  valShutdownNormal := 1#8
  valIntensity := 8#8
  pixelOn := true
  colOfBit := #v[7, 6, 5, 4, 3, 2, 1, 0]

/-- The machine of `config` after reset, with no line of a program left to run. -/
def idle (lastModule : Nat) : State :=
  { State.resetWith (config lastModule) with prog := [], loopBody := [] }

/-- A `RENDER` in progress at the sequence position `(r, j, sel)` (R25). -/
def rendering (lastModule : Nat) (r : BitVec 3) (j : Nat) (sel : Bool) : State :=
  { idle lastModule with busy := true, op := .render, r := r, j := j, sel := sel }

/-- A `BCAST p` in progress at the slot `j`. -/
def broadcasting (lastModule : Nat) (p : ChipCommand) (j : Nat) (sel : Bool) : State :=
  { idle lastModule with busy := true, op := .bcast, j := j, sel := sel, breg := p.reg, bdata := p.data }

/-- A byte source that lists these bytes and answers the first poll with a byte. -/
def prompt (bytes : List Byte) : ByteSource := { ByteSource.silent with stream := bytes, arrivals := [0] }

/-- A test on the state a step answers. -/
def after (out : Result) (p : State → Bool) : Bool :=
  match out with
  | .next t => p t
  | _ => false

/-! ## What is refused as ill formed -/

/-- R121: two of the five register numbers equal. -/
theorem test_refuses_equal_registers :
    { config 1 with regTest := 9#8 }.regsDistinct = false := by decide

/-- R121: a register number in `1..8`. -/
theorem test_refuses_row_register :
    { config 1 with regIntensity := 8#8 }.regsOutsideRows = false := by decide

/-- R160: `COL_OF_BIT` no bijection. -/
theorem test_refuses_column_twice :
    { config 1 with colOfBit := #v[7, 7, 5, 4, 3, 2, 1, 0] }.columnsDistinct = false := by decide

/-- R182: a chain of three chips for two modules. -/
theorem test_refuses_long_chain : { config 1 with chainLength := 3 }.chainFits = false := by decide

/-- U6: register number 0 is not named by the document. -/
theorem test_unnamed_register : (Instr.bcast 0#8 0#8).namesRegister (config 1) = false := by decide

/-- The configuration of the tests is well formed, and the words of the table are (R82). -/
theorem test_well_formed :
    (config 1).wellFormed = true ∧ (config 1).columnsDistinct = true ∧ (config 1).chainFits = true ∧
      (Instr.bcast 0#8 0#8).wellFormed = true ∧
      (Instr.bcast 15#8 0#8).namesRegister (config 1) = true := by decide

/-! ## Decoding: words written out from R72, R73, R79, R80 -/

/-- R73: `opc` 0; the other sixteen bits of a `RENDER` word are ignored (R82). -/
theorem test_decode_render :
    decodeCmd 0b0_00000000_00000000#17 = .render ∧
      decodeCmd 0b0_10101011_11001101#17 = .render := by decide

/-- R73: `opc` 1, `reg` 3, `data` 0x5A. -/
theorem test_decode_bcast : decodeCmd 0b1_00000011_01011010#17 = .bcast 3#8 0x5A#8 := by decide

/-- R80: the eight row commands, register number and then data 0xA5. -/
theorem test_decode_rows :
    decodePair (pairOfWord 0b00000001_10100101#16) = .ok (.row1 0xA5#8) ∧
    decodePair (pairOfWord 0b00000010_10100101#16) = .ok (.row2 0xA5#8) ∧
    decodePair (pairOfWord 0b00000011_10100101#16) = .ok (.row3 0xA5#8) ∧
    decodePair (pairOfWord 0b00000100_10100101#16) = .ok (.row4 0xA5#8) ∧
    decodePair (pairOfWord 0b00000101_10100101#16) = .ok (.row5 0xA5#8) ∧
    decodePair (pairOfWord 0b00000110_10100101#16) = .ok (.row6 0xA5#8) ∧
    decodePair (pairOfWord 0b00000111_10100101#16) = .ok (.row7 0xA5#8) ∧
    decodePair (pairOfWord 0b00001000_10100101#16) = .ok (.row8 0xA5#8) := by
  refine ⟨rfl, rfl, rfl, rfl, rfl, rfl, rfl, rfl⟩

/-- R81: no row for register numbers 0 and 9. -/
theorem test_decode_unnamed :
    decodePair (pairOfWord 0x00FF#16) = .error (.unnamedRegister 0#8) ∧
      decodePair (pairOfWord 0x09FF#16) = .error (.unnamedRegister 9#8) := ⟨rfl, rfl⟩

/-- R56: the register byte stands before the data byte; R73: a command word has 17 bits. -/
theorem test_decode_bytes :
    decode .crc [8#8, 1#8, 2#8] = .ok (.row8 1#8, [2#8]) ∧
      decode .cmd [0xFF#8, 8#8, 1#8] = .ok (.bcast 8#8 0xFF#8, []) ∧
      decode .cmd [0#8, 0#8, 2#8] = .error .strayBits ∧
      decode .crc [1#8] = .error .truncated := ⟨rfl, rfl, rfl, rfl⟩

/-- spec/opcode_table.json: its masks and matches, through the table decoder. -/
theorem test_decode_table_words :
    decodeTableWord 24 0x00000 = some .render ∧
      decodeTableWord 24 0x108FF = some (.bcast 8#8 0xFF#8) ∧
      decodeTableWord 16 0x0801 = some (.row8 1#8) ∧ decodeTableWord 16 0x0901 = none ∧
      decodeTableWord 24 0x20000 = none := ⟨rfl, rfl, rfl, rfl, rfl⟩

/-- DV15 and R86: the encoder's words. -/
theorem test_encode :
    encode .render = .cmd 0x00000#17 ∧ encode (.bcast 1#8 0#8) = .cmd 0x10100#17 ∧
      encode (.bcast 255#8 255#8) = .cmd 0x1FFFF#17 ∧ encode (.row8 1#8) = .crc 0x0801#16 ∧
      encode (.row1 0xFF#8) = .crc 0x01FF#16 := by decide

/-- spec/95_test_vectors.md section 4: the words of `INIT` under the assumed configuration. -/
theorem test_init_words :
    initLines (config 3) =
      [.command 0x10F00#17, .command 0x10900#17, .command 0x10B07#17, .command 0x10C01#17,
       .command 0x10A08#17] := by decide

/-- R87, P4: the words of `CLEAR`. -/
theorem test_clear_words :
    clearLines =
      [.command 0x10100#17, .command 0x10200#17, .command 0x10300#17, .command 0x10400#17,
       .command 0x10500#17, .command 0x10600#17, .command 0x10700#17, .command 0x10800#17] := by
  decide

/-! ## The first instruction after reset -/

/-- R173, R174: from reset, the first thing is the first line of `INIT`, accepted (R190: in one step). -/
theorem test_boot :
    after (step (State.resetWith (config 1)))
      (fun t => t.busy && t.op == .bcast && t.breg == 15#8 && t.bdata == 0#8 && t.cmd == none &&
        t.prog == (initLines (config 1)).tail) = true := by decide

/-- R91, R116: an operation is accepted as the first thing after reset. -/
theorem test_first_command :
    after (step (State.reset.withFetchWord 24 0x00000)) (fun t => t.busy && t.op == .render) = true ∧
      after (step (State.reset.withFetchWord 24 0x10300))
        (fun t => t.busy && t.op == .bcast && t.breg == 3#8 && t.bdata == 0#8) = true := by
  decide

/-- R156: a row command enters the nearest chip. -/
theorem test_first_row_command :
    after (step (State.reset.withFetchWord 16 0x0801))
      (fun t => t.j == 1 && (t.chips.head?.bind Chip.sh) == some ⟨8#8, 1#8⟩ &&
        t.trace == [.w ⟨8#8, 1#8⟩]) = true := by decide

/-! ## The steps, on the vectors of spec/95_test_vectors.md -/

/-- R94's example: `M = 4`, `r = 7`, `j = 0`, `FB[31] = 0x01` gives `W(8, 0x01)`, address 31. -/
theorem test_shift_row_example :
    after (step { rendering 3 7#3 0 true with fb := [(31, 0x01#8)] })
      (fun t => t.trace == [.w ⟨8#8, 0x01#8⟩] && t.j == 1) = true ∧
    fbRaddr (rendering 3 7#3 0 true) = some 31 := by decide

/-- DV6: the third pair of row 0 with `M = 3` is module 0's, and shifts the two before it on. -/
theorem test_shift_row_dv6 :
    after (step { rendering 2 0#3 2 true with
        fb := [(0, 0x10#8), (8, 0x20#8), (16, 0x30#8)]
        chips := [⟨some ⟨1#8, 0x20#8⟩, []⟩, ⟨some ⟨1#8, 0x30#8⟩, []⟩, ⟨none, []⟩] })
      (fun t => t.chips.map Chip.sh ==
        [some ⟨1#8, 0x10#8⟩, some ⟨1#8, 0x20#8⟩, some ⟨1#8, 0x30#8⟩]) = true := by decide

/-- DV6, last line: all chips latch together, the row advances. -/
theorem test_deassert_dv6 :
    after (step { rendering 2 0#3 3 true with
        chips := [⟨some ⟨1#8, 0x10#8⟩, []⟩, ⟨some ⟨1#8, 0x20#8⟩, []⟩, ⟨some ⟨1#8, 0x30#8⟩, []⟩] })
      (fun t => creg t 0 1#8 == some 0x10#8 && creg t 1 1#8 == some 0x20#8 &&
        creg t 2 1#8 == some 0x30#8 && t.r == 1#3 && t.busy) = true := by decide

/-- DV7: the last step of a `RENDER`. -/
theorem test_deassert_dv7 :
    after (step { rendering 1 7#3 2 true with waiting := true })
      (fun t => !t.busy && t.r == 0#3 && t.j == 0 && !t.sel && !t.waiting && cmdReady t) = true ∧
    doneOut (rendering 1 7#3 2 true) = true := by decide

/-- R93's example: `r = 3`. -/
theorem test_assert_example :
    after (step (rendering 1 3#3 0 false))
      (fun t => t.trace == [.sa] && t.sel && t.r == 3#3 && t.j == 0) = true := by decide

/-- DV10: a `BCAST` completes in its one `DEASSERT`. -/
theorem test_bcast_completes :
    after (step (broadcasting 3 ⟨8#8, 0#8⟩ 4 true)) (fun t => !t.busy && t.trace == [.sd]) = true ∧
      rowTxn (config 3) [] 7 = bcastTrace (config 3) ⟨8#8, 0#8⟩ := by decide

/-- DV1, V6: the row-7 transaction of the document's scenario. -/
theorem test_row_transaction_v6 :
    rowTxn (config 3) [(7, 0xFF#8), (31, 0x01#8)] 7 =
      [.sa, .w ⟨8#8, 0x01#8⟩, .w ⟨8#8, 0#8⟩, .w ⟨8#8, 0#8⟩, .w ⟨8#8, 0xFF#8⟩, .sd] := by decide

/-- R122: the completion of the last of the five broadcasts raises `configured`; P4: a `BCAST` to a row register leaves
a `configured` that was taken as a premise. -/
theorem test_configured :
    after (step { broadcasting 0 ⟨10#8, 8#8⟩ 1 true with
        chips := [⟨some ⟨10#8, 8#8⟩, [(9, 0#8), (11, 7#8), (12, 1#8), (15, 0#8)]⟩] })
      (fun t => t.configured) = true ∧
    after (step { broadcasting 0 ⟨1#8, 0#8⟩ 1 true with configured := true })
      (fun t => t.configured) = true := by decide

/-- R122: a later `BCAST` of another value to one of the five registers clears `configured`. -/
theorem test_configured_cleared :
    after (step { broadcasting 0 ⟨10#8, 9#8⟩ 1 true with
        configured := true, chips := [⟨some ⟨10#8, 9#8⟩, []⟩] })
      (fun t => !t.configured) = true := by decide

/-- R128's example: `M = 4`, `idx = 7`, `b = 0xFF`. -/
theorem test_poll_byte_example :
    after (step { idle 3 with idx := 7, source := prompt [0xFF#8] })
      (fun t => Memory.read t.fb 7 == 0xFF#8 && t.idx == 8 && t.source.consumed == 1) = true := by
  decide

/-- DV12: the eighth byte with `M = 1` hands the frame over. -/
theorem test_hand_off_dv12 :
    after (step { idle 0 with idx := 7, source := prompt [0x80#8] })
      (fun t => Memory.read t.fb 7 == 0x80#8 && t.idx == 0 && t.waiting &&
        t.cmd == some 0x00000#17) = true := by decide

/-- DV11: no data: `FB`, `idx`, `waiting`, `busy`, `T` and `consumed` stay. -/
theorem test_no_data_dv11 :
    after (step { idle 0 with idx := 3, fb := [(0, 1#8), (1, 2#8), (2, 4#8)] })
      (fun t => t.fb == [(0, 1#8), (1, 2#8), (2, 4#8)] && t.idx == 3 && !t.waiting && !t.busy &&
        t.trace == [] && t.source.consumed == 0) = true := by decide

/-- DV14: a write to the frame buffer during a `RENDER`, and the same write as a `POLL_BYTE`. -/
theorem test_fault_dv14 :
    after (step { rendering 1 0#3 0 true with fbWrite := some ⟨3, 5#8⟩ })
      (fun t => t.fault == some (.fbWriteWhileBusy 3) && t.trace == [] && t.fb == []) = true ∧
    fbPort { idle 1 with idx := 3, source := prompt [5#8] } = some ⟨3, 5#8⟩ ∧
    after (step { idle 1 with idx := 3, source := prompt [5#8] })
      (fun t => t.fault == none && Memory.read t.fb 3 == 5#8) = true := by decide

/-- R193: in an idle state a write held at the frame buffer's port has no move, and `FA` polls. -/
theorem test_no_move_when_idle :
    after (step { idle 1 with fbWrite := some ⟨3, 5#8⟩, busDrive := some .sa })
      (fun t => t.fault == none && t.fb == [] && t.trace == [] && t.source.polls == 1) = true := by
  decide

/-- R9: `FB_AW = ceil(log2(8*M))`: 3 for one module, 5 for four, 6 for five; and the port carries so many bits. -/
theorem test_address_width :
    (config 0).fbAddrWidth = 3 ∧ (config 3).fbAddrWidth = 5 ∧ (config 4).fbAddrWidth = 6 ∧
      fbWaddr (config 0) ⟨11, 0#8⟩ = 3 := ⟨rfl, rfl, rfl, rfl⟩

/-- R145 fault 2: another agent on the bus during an operation. -/
theorem test_fault_bus_touched :
    after (step { rendering 1 0#3 0 true with busDrive := some .sd })
      (fun t => t.fault == some .busTouchedByOther && t.trace == []) = true := by decide

/-- R158: an `SD` with an empty shift stage latches nothing in that chip. -/
theorem test_short_window :
    (react .sd [⟨some ⟨1#8, 5#8⟩, []⟩, ⟨none, []⟩]).map Chip.regs = [[(1, 5#8)], []] := by decide

/-- P2: `ACCUMULATE; RENDER; RENDER`: the hand-off is the first `RENDER` line, the second stays. -/
theorem test_program_p2 :
    afterFrame [] [.accumulate, renderLine, renderLine] = [renderLine] ∧
      afterFrame frameLoopBody frameLoopBody = [] := by decide

/-- R86, R134: `LOOP; RENDER; ACCUMULATE; END` is its lines over and over: the frame's `RENDER` is the first line of the
next pass, as it is where the lines stand unrolled. -/
theorem test_program_loop :
    afterFrame [renderLine, .accumulate] [.accumulate] = [.accumulate] ∧
      afterFrame [] [.accumulate, renderLine, .accumulate] = [.accumulate] := by decide

/-- P1's display: bit 0 of row 7 of module 3 is set, at the column that `COL_OF_BIT` gives it. -/
theorem test_pixel_p1 :
    let s := { idle 0 with configured := true, chips := [⟨none, [(8, 0x01#8)]⟩] }
    shownRow s 0 7#3 = some 0x01#8 ∧ pixelAt s 0 7#3 7 = some true ∧ pixelAt s 0 7#3 0 = some false ∧
      shownRow s 0 0#3 = none := by decide

/-! ## Witnesses: states and operands that meet the hypotheses of each statement -/

/-- `Inv`, at the boundary `idx = 8*M - 1`. -/
theorem witness_Inv : Inv { idle 1 with idx := 15 } where
  slot := by decide
  idle := by decide
  closed := by decide
  oneWindow := by decide
  traceForm := by decide
  index := by decide
  issuer := by decide
  presented := by decide
  handOff := by decide
  taken := by decide
  memory := by decide
  memoryRange := by decide
  registers := by decide
  chain := by decide
  chainFits := by decide

/-- `Inv` inside a window, with the last slot still to come. -/
theorem witness_Inv_window :
    Inv { rendering 1 7#3 1 true with trace := [.sa, .w ⟨8#8, 0#8⟩] } where
  slot := by decide
  idle := by decide
  closed := by decide
  oneWindow := by decide
  traceForm := by decide
  index := by decide
  issuer := by decide
  presented := by decide
  handOff := by decide
  taken := by decide
  memory := by decide
  memoryRange := by decide
  registers := by decide
  chain := by decide
  chainFits := by decide

/-- CommandWordFields: both clauses. PairWordFields: register numbers 0, 1, 8, 9, and 255. -/
theorem witness_words :
    (0x0FFFF#17).getLsbD 16 = false ∧ (0x10000#17).getLsbD 16 = true ∧
      (0x00FF#16).toNat / 256 = 0 ∧ (0x0100#16).toNat / 256 = 1 ∧ (0x08FF#16).toNat / 256 = 8 ∧
      9 ≤ (0x0900#16).toNat / 256 ∧ 9 ≤ (0xFFFF#16).toNat / 256 := by decide

/-- BlockResetValues, WrongChainLengthFaultsAtReset: the smallest chain, and one chip too few or too many. -/
theorem witness_chain_lengths :
    (config 0).chainLength = (config 0).modules ∧
      { config 0 with chainLength := 0 }.chainLength ≠ { config 0 with chainLength := 0 }.modules ∧
      { config 3 with chainLength := 5 }.chainLength ≠ { config 3 with chainLength := 5 }.modules := by
  decide

/-- StepRunsTheDecodedInstruction, RenderIsAccepted, BcastIsAccepted, AcceptedOnlyWhenReady: an idle block with a
command presented, of either operation. -/
theorem witness_presented :
    let s := { idle 0 with cmd := some 0x0FFFF#17 }
    let u := { idle 0 with cmd := some 0x10300#17 }
    s.fault = none ∧ s.busy = false ∧ s.cmd = some 0x0FFFF#17 ∧ (0x0FFFF#17).getLsbD 16 = false ∧
      u.fault = none ∧ u.busy = false ∧ u.cmd = some 0x10300#17 ∧ (0x10300#17).getLsbD 16 = true ∧
      s.fbWrite = none ∧ s.busDrive = none ∧ u.fbWrite = none ∧ u.busDrive = none ∧
      cmdReady s = true ∧ s.cmd.isSome = true ∧
      after (step s) (fun t => t.busy) = true := by decide

/-- PresentedCommandIsHeld (its last clause is witnessed by witness_presented) and the last clauses of
RenderIsAccepted: a busy block that steps. -/
theorem witness_held :
    let s := { rendering 0 0#3 0 false with cmd := some 0x00000#17 }
    s.fault = none ∧ s.busy = true ∧ after (step s) (fun t => t.cmd == some 0x00000#17) = true := by
  decide

/-- StepRunsTheDecodedInstruction, second clause, in the last slot of the last row. -/
theorem witness_pair_decodes :
    let s := rendering 1 7#3 1 true
    s.fault = none ∧ Disciplined s ∧ s.busy = true ∧ s.sel = true ∧ s.j < s.cfg.modules ∧
      decodePair (slotPair s) = .ok (.row8 0#8) :=
  ⟨rfl, disciplined_of_quiet rfl rfl, rfl, rfl, by decide, rfl⟩

/-- PlacedInstructionRuns: a word of either format. -/
theorem witness_placed :
    decodeTableWord 24 0x1FFFF = some (.bcast 255#8 255#8) ∧
      decodeTableWord 16 0x01FF = some (.row1 255#8) := ⟨rfl, rfl⟩

/-- A machine in the main loop that has filled its buffer with the bytes `1` to `7` of the stream, all but the last. -/
def lastByteDue : State :=
  { idle 0 with
    idx := 7
    fb := [(0, 1#8), (1, 2#8), (2, 3#8), (3, 4#8), (4, 5#8), (5, 6#8), (6, 7#8)]
    source := { prompt [1#8, 2#8, 3#8, 4#8, 5#8, 6#8, 7#8, 8#8] with consumed := 7 }
    loopBody := frameLoopBody }

/-- SomeStepIsEnabled, StepKeepsInv, HandOffExactlyWhenFull, FramingIsPositional, BufferHoldsTheStream: the invariants hold
and a step completes a frame. -/
theorem witness_step_of_Inv :
    Inv lastByteDue ∧ Positional lastByteDue ∧ Assembled lastByteDue ∧ lastByteDue.fault = none ∧
      lastByteDue.waiting = false ∧
      after (step lastByteDue) (fun t => t.waiting && t.idx == 0) = true :=
  ⟨⟨by decide, by decide, by decide, by decide, by decide, by decide, by decide, by decide, by decide,
    by decide, by decide, by decide, by decide, by decide, by decide⟩, rfl,
    ⟨by decide, by decide, by decide⟩, rfl, rfl, by decide⟩

/-- ChannelAndBusAreReliable, and the premises of R194 that FramingIsPositional, FrameReachesTheDisplay,
BufferHoldsTheStream, MainLoopRendersEachFrameOnce, EveryFrameIsHandedOver and EveryFrameOfTheStreamIsShown take. -/
theorem witness_environment :
    ChannelLossless lastByteDue ∧ Fair lastByteDue ∧ BusReliable lastByteDue :=
  ⟨fun _ _ h => ⟨(runFor_stream h).1, (runFor_stream h).2, poll_eq_none_or_nextByte _,
      fun _ hu => (step_source hu).2.2⟩,
    fun _ t _ _ hb => ⟨t.source.due, by
      rw [repeat_afterNoData]; exact poll_of_due hb (Nat.le_add_left _ _)⟩,
    fun _ _ h => runFor_events h⟩

/-- EveryFrameIsHandedOver, beside witness_main_loop: the first frame, whose bytes exist. -/
theorem witness_frame_to_come :
    lastByteDue.source.consumed < lastByteDue.cfg.frameBytes * (0 + 1) ∧
      (∀ i, i < lastByteDue.cfg.frameBytes * (0 + 1) → (lastByteDue.source.byteAt i).isSome = true) := by
  decide

/-- EveryFrameOfTheStreamIsShown, beside the invariants of witness_step_of_Inv: the run comes to the hand-off in one step,
on a configured chain. -/
theorem witness_frame_shown :
    let s := { lastByteDue with configured := true }
    NoFault s ∧ Inv s ∧ Positional s ∧ Assembled s ∧ ChainLength s ∧ Disciplined s ∧
      ChannelLossless s ∧ BusReliable s ∧
      after (runFor 1 s) (fun t => t.waiting && !t.busy && t.configured) = true :=
  ⟨rfl, ⟨by decide, by decide, by decide, by decide, by decide, by decide, by decide, by decide,
      by decide, by decide, by decide, by decide, by decide, by decide, by decide⟩, rfl,
    ⟨by decide, by decide, by decide⟩, rfl, disciplined_of_quiet rfl rfl,
    fun _ _ h => ⟨(runFor_stream h).1, (runFor_stream h).2, poll_eq_none_or_nextByte _,
      fun _ hu => (step_source hu).2.2⟩,
    fun _ _ h => runFor_events h, by decide⟩

/-- MainLoopRendersEachFrameOnce, beside the invariant; the completing clause of ByteIsStored. -/
theorem witness_main_loop :
    AssemblerTurn lastByteDue ∧ Disciplined lastByteDue ∧ lastByteDue.prog = [] ∧
      lastByteDue.loopBody = [.accumulate, .command 0x00000#17] ∧
      lastByteDue.source.poll = some 8#8 ∧ lastByteDue.idx + 1 = lastByteDue.cfg.frameBytes :=
  ⟨⟨rfl, rfl, rfl, rfl, fun _ _ h => by cases h⟩, disciplined_of_quiet rfl rfl, rfl, rfl, by decide,
    by decide⟩

/-- AssertStep, the first clause of ShiftBcastStep. -/
theorem witness_assert :
    let s := broadcasting 0 ⟨0#8, 0#8⟩ 0 false
    s.fault = none ∧ Disciplined s ∧ s.busy = true ∧ s.sel = false ∧ s.op = .bcast :=
  ⟨rfl, disciplined_of_quiet rfl rfl, rfl, rfl, rfl⟩

/-- ShiftRowStep: the first and the last slot, and a write held against it. -/
theorem witness_shift_row :
    let s := rendering 1 0#3 0 true
    let u := { rendering 1 7#3 1 true with fbWrite := some ⟨15, 0#8⟩ }
    s.fault = none ∧ s.busy = true ∧ s.op = .render ∧ s.sel = true ∧ s.j < s.cfg.modules ∧
      Disciplined s ∧ u.fault = none ∧ u.busy = true ∧ u.op = .render ∧ u.sel = true ∧
      u.j < u.cfg.modules ∧ u.fbWrite = some ⟨15, 0#8⟩ :=
  ⟨rfl, rfl, rfl, rfl, by decide, disciplined_of_quiet rfl rfl, rfl, rfl, rfl, rfl, by decide, rfl⟩

/-- ShiftBcastStep, DeassertStep: the last slot, and the window after it, of each kind. -/
theorem witness_deassert :
    (broadcasting 1 ⟨255#8, 255#8⟩ 1 true).j < (broadcasting 1 ⟨255#8, 255#8⟩ 1 true).cfg.modules ∧
      (broadcasting 1 ⟨255#8, 255#8⟩ 2 true).j = (broadcasting 1 ⟨255#8, 255#8⟩ 2 true).cfg.modules ∧
      (rendering 1 6#3 2 true).r.toNat < 7 ∧ (rendering 1 7#3 2 true).r.toNat = 7 ∧
      Disciplined (rendering 1 7#3 2 true) :=
  ⟨by decide, rfl, by decide, rfl, disciplined_of_quiet rfl rfl⟩

/-- DoneIsTheFallOfBusy, OneEventAtMost, ParametersNeverChange, RegistersChangeOnlyOnDeassert, FrameBufferWriters: steps of
a busy block with and without an event that a chip sees. -/
theorem witness_steps :
    after (step (rendering 1 7#3 2 true)) (fun t => !t.busy) = true ∧
      after (step (rendering 1 7#3 1 true)) (fun t => t.busy) = true ∧
      (rendering 1 7#3 1 true).busDrive = none ∧
      ¬((rendering 1 7#3 1 true).j = (rendering 1 7#3 1 true).cfg.modules) := by decide

/-- RowCommandsInARenderSlot: the lowest and the highest row. -/
theorem witness_row_slots :
    let s := { rendering 1 0#3 1 true with fb := [(0, 0xAA#8)] }
    let u := { rendering 1 7#3 0 true with fb := [(15, 0x55#8)] }
    s.fault = none ∧ s.busy = true ∧ s.op = .render ∧ s.sel = true ∧ s.j < s.cfg.modules ∧
      Disciplined s ∧ s.r.toNat + 1 = (1#8).toNat ∧
      Memory.read s.fb (8 * (s.cfg.modules - 1 - s.j) + s.r.toNat) = 0xAA#8 ∧
      Disciplined u ∧ u.r.toNat + 1 = (8#8).toNat ∧
      Memory.read u.fb (8 * (u.cfg.modules - 1 - u.j) + u.r.toNat) = 0x55#8 :=
  ⟨rfl, rfl, rfl, rfl, by decide, disciplined_of_quiet rfl rfl, rfl, by decide,
    disciplined_of_quiet rfl rfl, rfl, by decide⟩

/-- RowCommandsInABroadcastSlot, RowCommandsFromAnotherAgent: the block's own pair, another pair, a write held against
the block, an idle bus. -/
theorem witness_row_pairs :
    let s := broadcasting 1 ⟨3#8, 0#8⟩ 0 true
    let u := { broadcasting 1 ⟨3#8, 0#8⟩ 0 true with fbWrite := some ⟨15, 0#8⟩ }
    Disciplined s ∧ s.fbWrite = none ∧ u.fault = none ∧ u.busy = true ∧ u.fbWrite = some ⟨15, 0#8⟩ ∧
      s.fault = none ∧ s.busy = true ∧ s.op = .bcast ∧ s.sel = true ∧ s.j < s.cfg.modules ∧
      s.breg = 3#8 ∧ s.bdata = 0#8 ∧ txPair s ≠ some ⟨3#8, 1#8⟩ ∧
      txPair (broadcasting 1 ⟨3#8, 0#8⟩ 2 true) ≠ some ⟨3#8, 0#8⟩ ∧
      (idle 1).fault = none ∧ (idle 1).busy = false :=
  ⟨disciplined_of_quiet rfl rfl, by decide⟩

/-- FrameOfEveryInstruction: an instruction of either format that answers a next state. -/
theorem witness_exec :
    after (exec .render (idle 0)) (fun t => t.busy) = true ∧
      after (exec (.row3 0#8) (broadcasting 1 ⟨3#8, 0#8⟩ 0 true)) (fun t => t.j == 1) = true := by
  decide

/-- FrameBufferWriters, PhasesNeverOverlap, NoMoveOutOfTurn: a step that writes the last address, one in a waiting state,
one that reads, and an idle state with both inputs driven. -/
theorem witness_buffer_writers :
    after (step lastByteDue) (fun t => Memory.read t.fb 7 == 8#8 && t.source != lastByteDue.source) = true ∧
      after (step { idle 0 with waiting := true, cmd := some renderWord }) (fun t => t.fb == []) = true ∧
      fbRaddr (rendering 1 7#3 0 true) = some 15 ∧ 3 ≠ lastByteDue.idx ∧ (idle 1).busy = false ∧
      after (step { idle 1 with fbWrite := some ⟨7, 9#8⟩ }) (fun t => t.fbWrite == some ⟨7, 9#8⟩) = true := by
  decide

/-- ChainShiftsByOnePair, ChipsLatchTogether: a chain of two, one stage filled. -/
theorem witness_chain :
    let cs : List Chip := [⟨some ⟨1#8, 5#8⟩, []⟩, ⟨none, []⟩]
    cs[0]? = some ⟨some ⟨1#8, 5#8⟩, []⟩ ∧ cs[1]? = some ⟨none, []⟩ ∧
      (react (.w ⟨2#8, 6#8⟩) cs)[1]? = some ⟨some ⟨1#8, 5#8⟩, []⟩ ∧
      (react .sd cs)[0]? = some ⟨some ⟨1#8, 5#8⟩, [(1, 5#8)]⟩ ∧ (react .sd cs)[1]? = some ⟨none, []⟩ ∧
      [(⟨1#8, 5#8⟩ : ChipCommand), ⟨2#8, 6#8⟩].length = cs.length := by decide

/-- InitBroadcastsInitialise: the list's own order, and its reverse. -/
theorem witness_init :
    (config 1).wellFormed = true ∧ (idle 1).chips.length = (config 1).modules ∧
      (initPairs (config 1)).Perm (initPairs (config 1)) ∧
      (initPairs (config 1)).reverse.Perm (initPairs (config 1)) :=
  ⟨by decide, by decide, List.Perm.refl _, List.reverse_perm _⟩

/-- ConfiguredFollowsTheChips: a step that raises the flag, and one that clears it with a value that is not the one of
`INIT` and leaves the chain not initialised. -/
theorem witness_configured :
    let s := { broadcasting 0 ⟨10#8, 8#8⟩ 1 true with
        chips := [⟨some ⟨10#8, 8#8⟩, [(9, 0#8), (11, 7#8), (12, 1#8), (15, 0#8)]⟩] }
    let u := { broadcasting 0 ⟨10#8, 9#8⟩ 1 true with
        configured := true, chips := [⟨some ⟨10#8, 9#8⟩, []⟩] }
    doneOut s = true ∧
      after (step s) (fun t => initialised t.cfg t.chips && t.configured && !s.configured) = true ∧
      u.op = .bcast ∧ doneOut u = true ∧
      after (step u) (fun t => !initialised t.cfg t.chips && !t.configured && u.configured) = true ∧
      (⟨10#8, 8#8⟩ : ChipCommand) ∈ initPairs u.cfg ∧ (10#8 : Byte) = u.breg ∧ 8#8 ≠ u.bdata := by decide

/-- ShownRowsAndPixels: a row with a value, one without, an unconfigured machine. -/
theorem witness_shown :
    let s := { idle 0 with configured := true, chips := [⟨none, [(1, 0x80#8)]⟩] }
    s.configured = true ∧ shownRow s 0 0#3 = some 0x80#8 ∧ s.cfg.columnsDistinct = true ∧
      (idle 0).configured = false := by decide

/-- RenderRunsToItsTrace, BcastRunsToItsTrace: the machine after reset with the command presented. -/
theorem witness_runs :
    let s := { idle 0 with cmd := some 0x00000#17 }
    s.fault = none ∧ s.busy = false ∧ s.sel = false ∧ s.r = 0#3 ∧ s.j = 0 ∧ Disciplined s ∧
      s.cmd = some 0x00000#17 ∧ (0x00000#17).getLsbD 16 = false :=
  ⟨rfl, rfl, rfl, rfl, rfl, disciplined_of_quiet rfl rfl, rfl, rfl⟩

/-- BcastRunsToItsTrace. -/
theorem witness_bcast_runs :
    let s := { idle 0 with cmd := some 0x10800#17 }
    s.fault = none ∧ s.busy = false ∧ s.sel = false ∧ Disciplined s ∧
      s.cmd = some 0x10800#17 ∧ (0x10800#17).getLsbD 16 = true :=
  ⟨rfl, rfl, rfl, disciplined_of_quiet rfl rfl, rfl, rfl⟩

/-- RenderPaintsRowByRow, BcastReachesEveryChip, RenderDependsOnTheFrameAlone: an operation just accepted, twice with the
same frame and different pasts. -/
theorem witness_first_position :
    let s := { rendering 1 0#3 0 false with fb := [(7, 1#8)] }
    let u := { rendering 1 0#3 0 false with fb := [(7, 1#8), (99, 1#8)], trace := [.sa, .sd] }
    let b := broadcasting 1 ⟨8#8, 0#8⟩ 0 false
    AtFirstPosition s ∧ AtFirstPosition u ∧ AtFirstPosition b ∧ s.op = .render ∧ u.op = .render ∧
      b.op = .bcast ∧ Disciplined s ∧ Disciplined u ∧ Disciplined b ∧ ChainLength s ∧
      ChainLength b ∧ s.cfg.modules = u.cfg.modules ∧
      ∀ a, a < s.cfg.frameBytes → Memory.read s.fb a = Memory.read u.fb a :=
  ⟨⟨rfl, rfl, rfl, rfl, rfl⟩, ⟨rfl, rfl, rfl, rfl, rfl⟩, ⟨rfl, rfl, rfl, rfl, rfl⟩, rfl, rfl, rfl,
    disciplined_of_quiet rfl rfl, disciplined_of_quiet rfl rfl, disciplined_of_quiet rfl rfl, rfl, rfl,
    rfl, by decide⟩

/-- EachByteReadOnce: the last slot and the last address. -/
theorem witness_addresses : 1 < (config 1).modules ∧ 15 < (config 1).frameBytes := by decide

/-- BrokenContractIsRecorded: either contract, and both. -/
theorem witness_broken :
    let s := { rendering 0 0#3 0 false with fbWrite := some ⟨0, 0#8⟩, busDrive := some .sa }
    let u := { rendering 0 0#3 0 false with busDrive := some .sa }
    s.fault = none ∧ s.busy = true ∧ s.fbWrite = some ⟨0, 0#8⟩ ∧ u.fbWrite = none ∧
      u.busDrive = some .sa := by decide

/-- FaultedMachineStops: the machine of a chain that does not fit. -/
theorem witness_faulted :
    (State.resetWith { config 1 with chainLength := 1 }).fault = some .chainLengthMismatch := by decide

/-- NoDataChangesNothing, FinishedRunStaysAsItIs: a silent host. -/
theorem witness_no_data :
    AssemblerTurn (idle 1) ∧ (idle 1).source.poll = none ∧ RunOver (idle 1) :=
  ⟨⟨rfl, rfl, rfl, rfl, fun _ _ h => by cases h⟩, by decide, rfl, rfl, rfl, rfl, rfl⟩

/-- NoDataChangesNothing, ByteSourceDelivers: a byte that is there and not yet delivered, and one delivered. -/
theorem witness_no_data_yet :
    { prompt [5#8] with arrivals := [2] }.poll = none ∧
      { prompt [5#8] with arrivals := [2] }.stream[0]? = some 5#8 ∧ (prompt [5#8]).poll = some 5#8 ∧
      { ByteSource.silent with endless := true }.endless = true := by decide

/-- ByteIsStored: the first offset, and the lines of its last clause in this pass of the loop and at the head of the
next. -/
theorem witness_byte :
    let s := { idle 0 with source := prompt [0#8] }
    let u := { lastByteDue with prog := [.accumulate], loopBody := frameLoopBody }
    let v := { lastByteDue with prog := [.accumulate], loopBody := [renderLine, .accumulate] }
    AssemblerTurn s ∧ s.source.poll = some 0#8 ∧ s.idx + 1 < s.cfg.frameBytes ∧
      currentLines lastByteDue = .accumulate :: .command 0x00000#17 :: [] ∧
      (0x00000#17).getLsbD 16 = false ∧ currentLines u = [.accumulate] ∧
      currentLines v = [.accumulate] ∧ v.loopBody = .command 0x00000#17 :: [.accumulate] :=
  ⟨⟨rfl, rfl, rfl, rfl, fun _ _ h => by cases h⟩, by decide, by decide, rfl, rfl, rfl, rfl, rfl⟩

/-- OnlyDoneEndsTheWait: the last step of the wait, and one before it. -/
theorem witness_wait :
    after (step { rendering 0 7#3 1 true with waiting := true }) (fun t => !t.waiting) = true ∧
      after (step { rendering 0 6#3 1 true with waiting := true }) (fun t => t.waiting) = true := by
  decide

/-- ProgramLineIsPresented, BootRunsInit: the first line of `INIT`, after reset. -/
theorem witness_program :
    let s := State.resetWith (config 1)
    s.cfg.chainLength = s.cfg.modules ∧ s.fault = none ∧ s.busy = false ∧ s.waiting = false ∧
      s.cmd = none ∧ currentLines s = .command 0x10F00#17 :: (initLines (config 1)).tail ∧
      s.cfg.wellFormed = true :=
  ⟨rfl, rfl, rfl, rfl, rfl, rfl, by decide⟩

/-- FrameReachesTheDisplay: the first frame of the stream, just handed over to a configured machine. -/
theorem witness_handed_over :
    let s := { idle 0 with
      configured := true, waiting := true, cmd := some renderWord, cmdIssuer := .assembler
      fb := [(0, 1#8), (7, 8#8)]
      source := { prompt [1#8, 0#8, 0#8, 0#8, 0#8, 0#8, 0#8, 8#8] with consumed := 8 } }
    Inv s ∧ s.fault = none ∧ s.waiting = true ∧ s.busy = false ∧ Disciplined s ∧ ChainLength s ∧
      Configured s ∧ ChannelLossless s ∧ BusReliable s ∧ Assembled s ∧ s.source.consumed = s.cfg.frameBytes * (0 + 1) :=
  ⟨⟨by decide, by decide, by decide, by decide, by decide, by decide, by decide, by decide, by decide,
    by decide, by decide, by decide, by decide, by decide, by decide⟩, rfl, rfl, rfl,
    disciplined_of_quiet rfl rfl, rfl, rfl,
    fun _ _ h => ⟨(runFor_stream h).1, (runFor_stream h).2, poll_eq_none_or_nextByte _,
      fun _ hu => (step_source hu).2.2⟩,
    fun _ _ h => runFor_events h, ⟨by decide, by decide, by decide⟩, by decide⟩

/-- FrameBufferAddressWidth: the least module count, and a slot of it. -/
theorem witness_width : 0 < (config 0).modules ∧ (config 0).frameBytes ≤ 2 ^ 3 := by decide

end Sys2Proof.Tests
end

section
/-!
The scope of the model (spec/00_scope.md): what every step keeps, of the invariant of R43 and of the parameters,
and the width of the frame buffer's address ports.
-/

namespace Sys2Proof.Machine

/-- The width of the address ports is the least number of bits that holds `8*M` addresses (R9). -/
theorem fbAddrWidth_le_iff (cfg : Config) (k : Nat) :
    cfg.fbAddrWidth ≤ k ↔ cfg.frameBytes ≤ 2 ^ k := by
  have hpos : cfg.frameBytes - 1 ≠ 0 := by
    simp only [Config.frameBytes, Config.modules]; omega
  have hlog : Nat.log2 (cfg.frameBytes - 1) < k ↔ cfg.frameBytes - 1 < 2 ^ k := Nat.log2_lt hpos
  unfold Config.fbAddrWidth
  omega

/-- Every slot reads an address of the frame buffer (R51, R76). -/
theorem slotAddr_lt_frameBytes {cfg : Config} (r : BitVec 3) {j : Nat} (hj : j < cfg.modules) :
    slotAddr cfg r j < cfg.frameBytes := by
  have hr : r.toNat < 8 := r.isLt
  simp only [slotAddr, frameAddr, slotModule, Config.frameBytes]
  omega

/-- A byte of the stream is listed, or the stream has no end. -/
theorem ByteSource.listed_of_byteAt {h : ByteSource} {n : Nat} {b : Byte}
    (hb : h.byteAt n = some b) : n < h.stream.length ∨ h.endless = true := by
  by_contra hn
  obtain ⟨hlen, hend⟩ := not_or.1 hn
  simp [ByteSource.byteAt, List.getElem?_eq_none (Nat.not_lt.1 hlen), hend] at hb

/-- A poll that delivers a byte delivers one that is there (R137). -/
theorem ByteSource.listed_of_poll {h : ByteSource} {b : Byte} (hp : h.poll = some b) :
    h.consumed < h.stream.length ∨ h.endless = true := by
  obtain hnone | hnext := poll_eq_none_or_nextByte h
  · simp [hnone] at hp
  · exact ByteSource.listed_of_byteAt (hnext.symm.trans hp)

theorem completesFrame_eq_false_iff {s : State} :
    completesFrame s = false ↔ s.idx + 1 < s.cfg.frameBytes := by
  simp [completesFrame]

/-- A `BCAST` is one transaction (R95). -/
theorem lastTransaction_of_bcast {s : State} (ho : s.op = .bcast) : lastTransaction s = true := by
  simp [lastTransaction, ho]

end Sys2Proof.Machine

namespace Sys2Proof.Safety

open Sys2Proof.Machine

section

/-! Each named update of `StepCase` keeps the invariant. The parts of it that speak of fields the update leaves alone
are taken over from `h`. -/

variable {s : State}

/-- A command that `FA` presents is one it waits for (R133). -/
theorem waiting_of_presented (h : Inv s) (hi : s.cmdIssuer = .assembler) : s.waiting = true := by
  obtain ⟨-, hwait, -⟩ := h.presented hi
  exact hwait

theorem inv_raiseFault (f : FaultReason) (h : Inv s) (hf : s.fault = none) :
    Inv (raiseFault f s) :=
  { h with
    chainFits := by
      obtain hfits | hfault := h.chainFits
      · exact .inl hfits
      · simp [hf] at hfault }

theorem inv_assertSelect (h : Inv s) (hb : s.busy = true) (hs : s.sel = false) :
    Inv (assertSelect s) :=
  { h with
    idle := by simp [hb]
    closed := by simp
    traceForm := by simp [scanTrace_concat, h.traceForm, hs, scanEvent, h.closed hs] }

theorem inv_shiftPair (p : ChipCommand) (h : Inv s) (hb : s.busy = true) (hs : s.sel = true)
    (hj : s.j < s.cfg.modules) : Inv (shiftPair p s) :=
  { h with
    slot := hj
    idle := by simp [hb]
    closed := by simp [hs]
    traceForm := by simp [scanTrace_concat, h.traceForm, hs, scanEvent, hj]
    registers := wf_react (e := .w p) h.registers
    chain := (length_react (.w p) s.chips).trans h.chain }

/-- `DEASSERT` (R95): on the last transaction the block falls idle and `FA`'s wait ends with it, before it the block
stays busy and nothing of the hand-off changes. -/
theorem inv_deassertSelect (h : Inv s) (hb : s.busy = true) (hs : s.sel = true)
    (hj : s.j = s.cfg.modules) : Inv (deassertSelect s) :=
  { h with
    slot := Nat.zero_le _
    idle := by simp +contextual
    closed := fun _ => rfl
    oneWindow := fun ho _ => by simp [lastTransaction_of_bcast (s := s) ho]
    traceForm := by simp [scanTrace_concat, h.traceForm, hs, scanEvent, hj]
    issuer := fun hb' ho => by
      have hw : s.waiting = true := h.issuer hb ho
      simpa [hw] using hb'
    presented := fun hi => by simp [h.presented hi] at hb
    handOff := fun hw' => by
      obtain ⟨hw, hl⟩ : s.waiting = true ∧ lastTransaction s = false := by simpa using hw'
      obtain ⟨-, hop, hi⟩ | ⟨hidle, -⟩ := h.handOff hw
      · exact .inl ⟨by simp [hl], hop, hi⟩
      · simp [hb] at hidle
    registers := wf_react (e := .sd) h.registers
    chain := (length_react .sd s.chips).trans h.chain }

/-- `ACCEPT_RENDER` (R91): the presenter of the command is the issuer of the operation, so a waiting `FA` waits for
this one. -/
theorem inv_acceptRender (h : Inv s) (hb : s.busy = false) : Inv (acceptRender s) :=
  { h with
    slot := Nat.zero_le _
    idle := by simp
    closed := fun _ => rfl
    oneWindow := fun _ _ => rfl
    traceForm := by simp [h.traceForm, h.idle hb]
    issuer := fun _ hi => waiting_of_presented (s := s) h hi
    presented := by simp
    handOff := fun hw => by
      obtain ⟨hbusy, -⟩ | ⟨-, -, hi⟩ := h.handOff hw
      · simp [hb] at hbusy
      · exact .inl ⟨rfl, rfl, hi⟩ }

/-- `ACCEPT_BCAST` (R116): no `BCAST` is accepted while `FA` waits, for the command presented then is a `RENDER`. -/
theorem inv_acceptBcast (reg data : Byte) (h : Inv s) (hb : s.busy = false)
    (hn : s.waiting = false) : Inv (acceptBcast reg data s) :=
  { h with
    slot := Nat.zero_le _
    idle := by simp
    closed := fun _ => rfl
    oneWindow := fun _ _ => rfl
    traceForm := by simp [h.traceForm, h.idle hb]
    issuer := fun _ hi => waiting_of_presented (s := s) h hi
    presented := by simp
    handOff := by simp [hn] }

/-- A command that is no `RENDER` is presented to an idle block only while `FA` does not wait (R133). -/
theorem not_waiting_of_bcast {w : CmdWord} (h : Inv s) (hb : s.busy = false)
    (hc : s.cmd = some w) (hw : w.getLsbD 16 = true) : s.waiting = false := by
  by_contra hwait
  obtain ⟨hbusy, -⟩ | ⟨-, hrender, -⟩ := h.handOff (by simpa using hwait)
  · simp [hb] at hbusy
  · obtain rfl : w = renderWord := by simpa [hc] using hrender
    simp [renderWord] at hw

theorem inv_presentLine (w : CmdWord) (rest : List EnvLine) (h : Inv s)
    (hn : s.waiting = false) : Inv (presentLine w rest s) :=
  { h with
    presented := by simp
    handOff := by simp [hn] }

theorem inv_pollNoData (h : Inv s) : Inv (pollNoData s) := { h with }

/-- `POLL_BYTE` (R128): the byte goes inside the buffer, and the one that completes the frame hands over `FA`'s `RENDER`
to the idle block (R129, R133). -/
theorem inv_pollByte {b : Byte} (h : Inv s) (hb : s.busy = false) (hn : s.waiting = false)
    (hp : s.source.poll = some b) : Inv (pollByte b s) :=
  { h with
    index := by
      cases hfull : completesFrame s
      · simpa [hfull] using completesFrame_eq_false_iff.1 hfull
      · simpa [hfull] using Nat.zero_lt_of_lt h.index
    issuer := by simp [hb]
    presented := by
      have hother : s.cmdIssuer ≠ .assembler := fun hi => by
        simp [waiting_of_presented h hi] at hn
      cases hfull : completesFrame s <;> simp [hfull, hb, hother]
    handOff := by cases hfull : completesFrame s <;> simp [hfull, hn, hb]
    taken := ByteSource.listed_of_poll hp
    memory := Memory.wf_write _ _ h.memory
    memoryRange := Memory.within_write _ h.memoryRange h.index }

/-- Everything a step can do keeps the invariant. -/
theorem inv_of_stepCase {t : State} (h : Inv s) (hf : s.fault = none) (hc : StepCase s t) :
    Inv t := by
  cases hc with
  | breached => exact inv_raiseFault _ h hf
  | assert hb hs => exact inv_assertSelect h hb hs
  | shift hb hs hj => exact inv_shiftPair _ h hb hs hj
  | deassert hb hs hj => exact inv_deassertSelect h hb hs hj
  | acceptRender hb => exact inv_acceptRender h hb
  | acceptBcast hb hcmd hw => exact inv_acceptBcast _ _ h hb (not_waiting_of_bcast h hb hcmd hw)
  | lineRender hb _ hn => exact inv_acceptRender (inv_presentLine _ _ h hn) hb
  | lineBcast hb _ hn => exact inv_acceptBcast _ _ (inv_presentLine _ _ h hn) hb hn
  | noData => exact inv_pollNoData h
  | byte hb _ hn _ hp => exact inv_pollByte h hb hn hp

end

/-- Settles O12: the updates a step can make, each of which keeps the invariant. -/
theorem stepKeepsInv : Obligations.StepKeepsInv := fun _ _ h hstep =>
  have ⟨hf, hc⟩ := step_next hstep
  inv_of_stepCase h hf hc

/-- Settles O22: of the updates a step can make, the three of a busy block emit one event each (R93 to R95, R117), and
no other touches the trace or the chain. -/
theorem oneEventAtMost : Obligations.OneEventAtMost := by
  intro s t hstep
  obtain ⟨-, hc⟩ := step_next hstep
  cases hc with
  | assert hb | shift hb | deassert hb => exact .inr ⟨hb, _, rfl, rfl⟩
  | _ => exact .inl ⟨rfl, rfl⟩

/-- Settles O28: no update writes the parameters, and a chain is as long after its reaction to an event as before. -/
theorem parametersNeverChange : Obligations.ParametersNeverChange := by
  intro s t hstep
  obtain ⟨-, -, hcfg⟩ := step_inputs hstep
  refine ⟨hcfg, ?_⟩
  obtain ⟨-, hchips⟩ | ⟨e, -, hchips⟩ := step_event hstep
  · rw [hchips]
  · rw [hchips, length_react]

/-- Settles O58: the width is the least that holds `8*M` addresses; two bits hold fewer than the eight of one module. -/
theorem frameBufferAddressWidth : Obligations.FrameBufferAddressWidth := by
  intro cfg
  have hfits : cfg.frameBytes ≤ 2 ^ cfg.fbAddrWidth := (fbAddrWidth_le_iff cfg _).1 le_rfl
  refine ⟨hfits, ?_, fun k => (fbAddrWidth_le_iff cfg k).2,
    fun r j hj => (slotAddr_lt_frameBytes r hj).trans_le hfits⟩
  by_contra hsmall
  have htwo : cfg.frameBytes ≤ 2 ^ 2 := (fbAddrWidth_le_iff cfg 2).1 (by omega)
  simp only [Config.frameBytes, Config.modules] at htwo
  omega

end Sys2Proof.Safety
end

section
/-!
The state of the machine (spec/10_state.md): the reset state, the faulted state, the step that each kind of state takes,
the outputs `cmd_ready` and `done`, and what instructions and steps leave unchanged.
-/

namespace Sys2Proof

/-- A pair word read as its two bytes, the upper one first (R56, R72). -/
theorem pairOfWord_ofNat (w : Nat) :
    pairOfWord (BitVec.ofNat 16 w) = ⟨BitVec.ofNat 8 (w / 256), BitVec.ofNat 8 w⟩ := by
  have hreg : (BitVec.ofNat 16 w).extractLsb' 8 8 = BitVec.ofNat 8 (w / 256) :=
    BitVec.eq_of_toNat_eq (by simp [Nat.shiftRight_eq_div_pow]; omega)
  have hdata : (BitVec.ofNat 16 w).extractLsb' 0 8 = BitVec.ofNat 8 w :=
    BitVec.eq_of_toNat_eq (by simp)
  rw [pairOfWord, hreg, hdata]

/-- The three bytes of a command word, lowest first, make up that word (log entry 4). -/
theorem cmdWord_of_bytes (w : Nat) :
    (BitVec.ofNat 8 (w / 65536)).setWidth 1 ++ BitVec.ofNat 8 (w / 256) ++ BitVec.ofNat 8 w =
      BitVec.ofNat 17 w := by
  apply BitVec.eq_of_toNat_eq
  simp only [BitVec.toNat_append, BitVec.toNat_setWidth, BitVec.toNat_ofNat]
  rw [← Nat.shiftLeft_add_eq_or_of_lt (by omega), ← Nat.shiftLeft_add_eq_or_of_lt (by omega),
    Nat.shiftLeft_eq, Nat.shiftLeft_eq]
  omega

/-- A table word of at most 16 bits is the pair that its bits spell (R72). -/
theorem decodePair_of_decodeTableWord {nbits w : Nat} {i : Instr} (hn : nbits ≤ 16)
    (h : decodeTableWord nbits w = some i) :
    decodePair (pairOfWord (BitVec.ofNat 16 w)) = .ok i := by
  rw [pairOfWord_ofNat]
  simp only [decodeTableWord, hn, if_true, decode] at h
  split_ifs at h
  cases hp : decodePair ⟨BitVec.ofNat 8 (w / 256), BitVec.ofNat 8 w⟩ <;> simp_all

/-- A table word of more than 16 bits is the command that its bits spell (R73). -/
theorem decodeCmd_of_decodeTableWord {nbits w : Nat} {i : Instr} (hn : ¬ nbits ≤ 16)
    (h : decodeTableWord nbits w = some i) : decodeCmd (BitVec.ofNat 17 w) = i := by
  rw [← cmdWord_of_bytes]
  simp only [decodeTableWord, hn, if_false, decode] at h
  split_ifs at h
  simpa using h

end Sys2Proof

namespace Sys2Proof.Machine

open Sys2Proof.Safety

/-! ### What an instruction is -/

theorem exec_render (s : State) : exec .render s = present acceptRender s := rfl

theorem exec_bcast (reg data : Byte) (s : State) :
    exec (.bcast reg data) s = present (acceptBcast reg data) s := rfl

/-- A row command is its pair on the bus. -/
theorem exec_of_decodePair {p : ChipCommand} {i : Instr} (h : decodePair p = .ok i) (s : State) :
    exec i s = busWrite p s := by
  rw [← writePair_eq_busWrite, writePair, h]

/-- An instruction is one of the two commands or a row command. -/
theorem instr_command_or_row (i : Instr) :
    i = .render ∨ (∃ reg data, i = .bcast reg data) ∨ ∃ p, decodePair p = .ok i := by
  cases i with
  | render => exact .inl rfl
  | bcast reg data => exact .inr (.inl ⟨reg, data, rfl⟩)
  | row1 data => exact .inr (.inr ⟨⟨1#8, data⟩, rfl⟩)
  | row2 data => exact .inr (.inr ⟨⟨2#8, data⟩, rfl⟩)
  | row3 data => exact .inr (.inr ⟨⟨3#8, data⟩, rfl⟩)
  | row4 data => exact .inr (.inr ⟨⟨4#8, data⟩, rfl⟩)
  | row5 data => exact .inr (.inr ⟨⟨5#8, data⟩, rfl⟩)
  | row6 data => exact .inr (.inr ⟨⟨6#8, data⟩, rfl⟩)
  | row7 data => exact .inr (.inr ⟨⟨7#8, data⟩, rfl⟩)
  | row8 data => exact .inr (.inr ⟨⟨8#8, data⟩, rfl⟩)

theorem decodePair_ne_render (p : ChipCommand) : decodePair p ≠ .ok .render := by
  unfold decodePair; split <;> simp

theorem decodePair_ne_bcast (p : ChipCommand) (reg data : Byte) :
    decodePair p ≠ .ok (.bcast reg data) := by
  unfold decodePair; split <;> simp

/-! ### The faulted machine -/

theorem step_of_fault {s : State} {f : FaultReason} (h : s.fault = some f) :
    step s = .fault (.halted f) := unlessFaulted_some h _

/-- Every instruction asks for `fault = none` (R149). -/
theorem exec_of_fault {s : State} {f : FaultReason} (h : s.fault = some f) (i : Instr) :
    exec i s = .fault (.halted f) := by
  obtain rfl | ⟨reg, data, rfl⟩ | ⟨p, hp⟩ := instr_command_or_row i
  · exact unlessFaulted_some h _
  · exact unlessFaulted_some h _
  · rw [exec_of_decodePair hp]
    exact unlessFaulted_some h _

/-! ### The step of each kind of state -/

/-- The step of a state in which a contract is broken (R147). -/
theorem step_of_breach {s : State} {f : FaultReason} (hf : s.fault = none)
    (hq : breach s = some f) : step s = .next (raiseFault f s) := by
  simp [step, advance, unlessFaulted_none hf, hq]

/-- The step of a busy block whose window is closed (R93). -/
theorem step_before_window {s : State} (hf : s.fault = none) (hq : breach s = none)
    (hb : s.busy = true) (hs : s.sel = false) : step s = .next (assertSelect s) := by
  simp [step_of_busy hf hq hb, blockStep, hs]

theorem breach_of_fbWrite {s : State} {w : FbWrite} (hb : s.busy = true)
    (hw : s.fbWrite = some w) : breach s = some (.fbWriteWhileBusy (fbWaddr s.cfg w)) := by
  simp [breach, hb, hw]

/-- The Frame Assembler has its turn, or the next line of the program is a command. -/
theorem command_or_assemblerTurn {s : State} (hf : s.fault = none) (hb : s.busy = false)
    (hn : s.waiting = false) (hc : s.cmd = none) :
    (∃ w rest, currentLines s = .command w :: rest) ∨ AssemblerTurn s := by
  by_cases hl : ∃ w rest, currentLines s = .command w :: rest
  · exact .inl hl
  · exact .inr ⟨hf, hb, hn, hc, fun w rest h => hl ⟨w, rest, h⟩⟩

/-- The step of a busy block within its slots (R25). -/
theorem step_enabled_of_busy {s : State} (hf : s.fault = none) (hb : s.busy = true)
    (hj : s.j ≤ s.cfg.modules) : ∃ t, step s = .next t := by
  cases hq : breach s with
  | some f => exact ⟨_, step_of_breach hf hq⟩
  | none =>
    cases hs : s.sel with
    | false => exact ⟨_, step_before_window hf hq hb hs⟩
    | true =>
      obtain hj | hj := hj.lt_or_eq
      · exact ⟨_, step_in_slot hf hq hb hs hj⟩
      · exact ⟨_, step_after_slots hf hq hb hs hj⟩

/-- The step of an idle block to which a command is presented whenever `FA` waits (R133). -/
theorem step_enabled_of_idle {s : State} (hf : s.fault = none) (hb : s.busy = false)
    (hw : s.waiting = true → s.cmd ≠ none) : ∃ t, step s = .next t := by
  cases hc : s.cmd with
  | some w => exact ⟨_, (step_of_command hf hb hc).trans (exec_decodeCmd hf hb)⟩
  | none =>
    have hn : s.waiting = false := by simpa using fun h => hw h hc
    obtain ⟨w, rest, hl⟩ | hturn := command_or_assemblerTurn hf hb hn hc
    · exact ⟨_, (step_of_line hf hb hn hc hl).trans
        (exec_decodeCmd (s := presentLine w rest s) hf hb)⟩
    · exact ⟨_, step_of_assembler hturn⟩

/-! ### The placing of an instruction -/

/-- A placed pair is the one that the first slot of the window carries (log entry 11). -/
theorem step_placePair {p : ChipCommand} {i : Instr} (h : decodePair p = .ok i) (s : State) :
    step (placePair p s) = exec i (placePair p s) := by
  cases hf : (placePair p s).fault with
  | some f => rw [step_of_fault hf, exec_of_fault hf]
  | none =>
    have hj : (placePair p s).j < (placePair p s).cfg.modules := Nat.succ_pos _
    have hslot : slotPair (placePair p s) = p := rfl
    rw [step_of_busy hf rfl rfl, blockStep, if_neg (by simp [placePair]), if_pos hj, hslot,
      writePair, h]

/-- A placed command word is presented to the idle block (log entry 11). -/
theorem step_placeCommand (w : CmdWord) (s : State) :
    step (placeCommand w s) = exec (decodeCmd w) (placeCommand w s) := by
  cases hf : (placeCommand w s).fault with
  | some f => rw [step_of_fault hf, exec_of_fault hf]
  | none => exact step_of_command hf rfl rfl

/-! ### The outputs `cmd_ready` and `done` -/

theorem cmdReady_iff (s : State) : cmdReady s = true ↔ s.busy = false ∧ s.fault = none := by
  simp [cmdReady]

theorem cmdPort_of_cmd {s : State} {w : CmdWord} (hc : s.cmd = some w) : cmdPort s = some w := by
  simp [cmdPort, hc]

theorem cmdPort_of_line {s : State} {w : CmdWord} {rest : List EnvLine} (hb : s.busy = false)
    (hn : s.waiting = false) (hc : s.cmd = none) (hl : currentLines s = .command w :: rest) :
    cmdPort s = some w := by
  simp [cmdPort, hc, hb, hn, hl]

/-- `done` is the output of the undisturbed step that closes the last window (R29, R95). -/
theorem doneOut_iff (s : State) :
    doneOut s = true ↔ s.busy = true ∧ s.sel = true ∧ s.j = s.cfg.modules ∧
      lastTransaction s = true ∧ s.fault = none ∧ breach s = none := by
  simp [doneOut, undisturbed, and_assoc]

/-- The step in which `done` is 1 is the `DEASSERT` of a last transaction. -/
theorem step_of_doneOut {s : State} (h : doneOut s = true) :
    step s = .next (deassertSelect s) := by
  obtain ⟨hb, hs, hj, -, hf, hq⟩ := (doneOut_iff s).1 h
  exact step_after_slots hf hq hb hs hj

/-- A step that closes a window breaks no contract: the step of a broken one leaves `sel` as it is. -/
theorem breach_of_step_deassert {s : State} (hs : s.sel = true)
    (h : step s = .next (deassertSelect s)) : breach s = none := by
  cases hq : breach s with
  | none => rfl
  | some f =>
    obtain ⟨hf, -⟩ := step_next h
    rw [step_of_breach hf hq] at h
    have hsel : s.sel = false := congrArg State.sel (Host.Outcome.next.inj h)
    simp [hs] at hsel

/-- `done` in a step that closes a window: it is the window of a last transaction. -/
theorem doneOut_of_step_deassert {s : State} (hb : s.busy = true) (hs : s.sel = true)
    (hj : s.j = s.cfg.modules) (h : step s = .next (deassertSelect s)) :
    doneOut s = true ↔ lastTransaction s = true := by
  obtain ⟨hf, -⟩ := step_next h
  simp [doneOut_iff, hb, hs, hj, hf, breach_of_step_deassert hs h]

/-! ### What stays -/

/-- Chips with the same register files show the same registers. -/
theorem creg_congr {s t : State} (h : t.chips.map Chip.regs = s.chips.map Chip.regs) (c : Nat)
    (a : Byte) : creg t c a = creg s c a := by
  have hc : (t.chips[c]?).map Chip.regs = (s.chips[c]?).map Chip.regs := by
    rw [← List.getElem?_map, ← List.getElem?_map, h]
  have creg_map (x : Option Chip) :
      (x.bind fun chip => chip.creg a) = (x.map Chip.regs).bind fun m => cellAt m a.toNat := by
    cases x <;> rfl
  rw [creg, creg, creg_map, creg_map, hc]

/-- R122: whether a `BCAST` writes another value to one of the five registers. -/
theorem spoilsInit_iff (cfg : Config) (p : ChipCommand) :
    spoilsInit cfg p = true ↔ ∃ q ∈ initPairs cfg, q.reg = p.reg ∧ q.data ≠ p.data := by
  simp [spoilsInit, List.any_eq_true]

section

variable {cfg : Config} {chips : List Chip} {p : ChipCommand} {was : Bool}

theorem configuredAfter_of_initialised (hi : initialised cfg chips = true) :
    configuredAfter cfg chips p was = true := by
  simp [configuredAfter, hi]

theorem configuredAfter_of_spoilsInit (hi : initialised cfg chips = false)
    (hp : spoilsInit cfg p = true) : configuredAfter cfg chips p was = false := by
  simp [configuredAfter, hi, hp]

/-- The flag rises only with the chain initialised. -/
theorem initialised_of_rise (h : configuredAfter cfg chips p false = true) :
    initialised cfg chips = true := by
  simpa [configuredAfter] using h

/-- The flag falls only by a `BCAST` of another value to one of the five registers. -/
theorem spoilsInit_of_fall (h : configuredAfter cfg chips p true = false) :
    spoilsInit cfg p = true := by
  obtain ⟨-, hp⟩ : initialised cfg chips = false ∧ spoilsInit cfg p = true := by
    simpa [configuredAfter] using h
  exact hp

end

/-- The end of a `BCAST` (R122): the flag by the chips as the `SD` leaves them. -/
theorem configuredAfterDeassert_of_bcast {s : State} (ho : s.op = .bcast) :
    configuredAfterDeassert s =
      configuredAfter s.cfg (deassertSelect s).chips ⟨s.breg, s.bdata⟩ s.configured := by
  simp only [configuredAfterDeassert, ho]; rfl

/-- No end of a `RENDER` writes the flag (R31). -/
theorem bcast_of_configured_ne {s : State} (h : configuredAfterDeassert s ≠ s.configured) :
    s.op = .bcast := by
  cases ho : s.op with
  | bcast => rfl
  | render => exact absurd (by simp [configuredAfterDeassert, ho]) h

/-! ### The byte source -/

/-- A poll that delivers a byte delivers the next one (R137). -/
theorem nextByte_of_poll {h : ByteSource} {b : Byte} (hp : h.poll = some b) :
    h.nextByte = some b := by
  obtain hnone | hnext := poll_eq_none_or_nextByte h
  · simp [hnone] at hp
  · exact hnext.symm.trans hp

theorem byteAt_of_listed {h : ByteSource} {n : Nat} {b : Byte} (hb : h.stream[n]? = some b) :
    h.byteAt n = some b := by
  simp [ByteSource.byteAt, hb]

theorem isSome_byteAt_of_endless {h : ByteSource} (he : h.endless = true) (n : Nat) :
    (h.byteAt n).isSome = true := by
  unfold ByteSource.byteAt
  split
  · rfl
  · simp [he]

/-- A byte that is there is delivered by the first poll that is due for it, after finitely many others (R137). -/
theorem poll_after_due {h : ByteSource} {b : Byte} (hb : h.nextByte = some b) :
    (Nat.repeat ByteSource.afterNoData h.due h).poll = some b := by
  rw [repeat_afterNoData]
  exact poll_of_due hb (Nat.le_add_left _ _)

end Sys2Proof.Machine

namespace Sys2Proof.Safety

open Sys2Proof.Machine

/-- R42, R43: the invariant after reset, whatever the parameters. -/
theorem inv_resetWith (cfg : Config) : Inv (State.resetWith cfg) where
  slot := Nat.zero_le _
  idle _ := ⟨rfl, rfl, rfl⟩
  closed _ := rfl
  oneWindow _ _ := rfl
  traceForm := rfl
  index := by simp [State.resetWith, Config.frameBytes, Config.modules]
  issuer hb := by cases hb
  presented hi := by cases hi
  handOff hw := by cases hw
  taken := .inl le_rfl
  memory := Memory.wf_empty
  memoryRange := by simp [State.resetWith]
  registers c hc := by
    obtain rfl : c = .blank := List.eq_of_mem_replicate hc
    exact ⟨List.Pairwise.nil, by simp [Chip.blank]⟩
  chain := List.length_replicate
  chainFits := by
    by_cases hfits : cfg.chainLength = cfg.modules
    · exact .inl hfits
    · exact .inr (if_neg hfits)

/-- R130: no byte is taken yet, and none is in the buffer. -/
theorem assembled_resetWith (cfg : Config) : Assembled (State.resetWith cfg) :=
  ⟨le_rfl, fun _ hi => absurd hi (Nat.not_lt_zero _), fun hw => by cases hw⟩

/-- Settles O8: the invariant and the buffer's contents at reset, with the index at the number of bytes taken, 0. -/
theorem invHoldsAtReset : Obligations.InvHoldsAtReset :=
  ⟨fun cfg => ⟨inv_resetWith cfg, (Nat.zero_mod _).symm, assembled_resetWith cfg⟩, inv_resetWith _⟩

/-- Settles O42: every step and every instruction asks for `fault = none`, and so does `cmd_ready`. -/
theorem faultedMachineStops : Obligations.FaultedMachineStops := fun s f h =>
  ⟨step_of_fault h, exec_of_fault h, by simp [cmdReady, h]⟩

/-- Settles O10: the table word is the pair or the command that is placed, and either is what the step then takes. -/
theorem placedInstructionRuns : Obligations.PlacedInstructionRuns := by
  intro s nbits w i h
  unfold State.withFetchWord
  split_ifs with hn
  · exact step_placePair (decodePair_of_decodeTableWord hn h) s
  · rw [step_placeCommand, decodeCmd_of_decodeTableWord hn h]

/-- Settles O11: a busy block has `j ≤ M`, and an idle one for which `FA` waits has `FA`'s `RENDER` presented to it. -/
theorem someStepIsEnabled : Obligations.SomeStepIsEnabled := by
  intro s h hf
  cases hb : s.busy with
  | true => exact step_enabled_of_busy hf hb h.slot
  | false =>
    refine step_enabled_of_idle hf hb fun hw => ?_
    obtain ⟨hbusy, -⟩ | ⟨-, hc, -⟩ := h.handOff hw
    · simp [hb] at hbusy
    · simp [hc]

/-- Settles O15: the updates that set `busy` are the acceptances, each of a command on the port of a ready block. -/
theorem acceptedOnlyWhenReady : Obligations.AcceptedOnlyWhenReady := by
  refine ⟨cmdReady_iff, fun s t hstep hb ht => ?_, fun s hr hcmd => ?_⟩
  · obtain ⟨hf, hc⟩ := step_next hstep
    refine ⟨(cmdReady_iff s).2 ⟨hb, hf⟩, ?_⟩
    cases hc with
    | acceptRender _ hc | acceptBcast _ hc => simp [cmdPort_of_cmd hc]
    | lineRender _ hc hn hl | lineBcast _ hc hn hl => simp [cmdPort_of_line hb hn hc hl]
    | breached | noData | byte => exact absurd (hb.symm.trans ht) nofun
    | assert h | shift h | deassert h => exact absurd (hb.symm.trans h) nofun
  · obtain ⟨hb, hf⟩ := (cmdReady_iff s).1 hr
    obtain ⟨w, hw⟩ := Option.isSome_iff_exists.1 hcmd
    refine ⟨_, (step_of_command hf hb hw).trans (exec_decodeCmd hf hb), ?_⟩
    split_ifs <;> rfl

/-- Settles O18: undisturbed, the step writes the pair of its slot, the row's number and byte; a write held against the
buffer breaks a contract, and the step records that instead. -/
theorem shiftRowStep : Obligations.ShiftRowStep := by
  intro s hf hb ho hs hj addr p
  refine ⟨fun hd => ?_, fun w hw => ?_⟩
  · have hq : breach s = none := breach_of_disciplined hd
    have hslot : slotPair s = p := by
      simp only [slotPair, ho, rowPair, rowReg_eq_succ]; rfl
    have hraddr : fbRaddr s = some addr := by
      simp only [fbRaddr, ho, slotOpen, undisturbed, hb, hs, hj, hf, hq]; rfl
    exact ⟨hraddr, by simp [fbRdata, hraddr], hslot ▸ txPair_open hf hq hb hs hj,
      hslot ▸ step_in_slot hf hq hb hs hj⟩
  · have hq : breach s = some (.fbWriteWhileBusy (fbWaddr s.cfg w)) := breach_of_fbWrite hb hw
    have hu : undisturbed s = false := by simp [undisturbed, hq]
    exact ⟨by simp [fbRaddr, ho, hu], by simp [txPair, hu], step_of_breach hf hq⟩

/-- Settles O21: the one update of a busy block that clears `busy` is the `DEASSERT` of a last transaction. -/
theorem doneIsTheFallOfBusy : Obligations.DoneIsTheFallOfBusy := by
  intro s t hstep
  constructor
  · intro hd
    obtain ⟨hb, -, -, hl, -⟩ := (doneOut_iff s).1 hd
    obtain rfl : deassertSelect s = t := by simpa [step_of_doneOut hd] using hstep
    exact ⟨hb, by simp [hl]⟩
  · rintro ⟨hb, ht⟩
    obtain ⟨-, hc⟩ := step_next hstep
    cases hc with
    | deassert _ hs hj =>
      exact (doneOut_of_step_deassert hb hs hj hstep).2 (by simpa using ht)
    | breached | assert | shift => exact absurd (hb.symm.trans ht) nofun
    | acceptRender h | acceptBcast h | lineRender h | lineBcast h | noData h | byte h =>
      simp [hb] at h

/-- Settles O26: a command is held or accepted, and a row command raises a fault, is the block's own write, or makes the
chain of an idle block shift, which no register of a chip sees. -/
theorem frameOfEveryInstruction : Obligations.FrameOfEveryInstruction := by
  intro i s t h
  obtain rfl | ⟨reg, data, rfl⟩ | ⟨p, hp⟩ := instr_command_or_row i
  · rw [exec_render] at h
    obtain ⟨-, ⟨-, rfl⟩ | ⟨-, rfl⟩⟩ := present_next h <;> simp
  · rw [exec_bcast] at h
    obtain ⟨-, ⟨-, rfl⟩ | ⟨-, rfl⟩⟩ := present_next h <;> simp
  · have hrender : i ≠ .render := fun hi => decodePair_ne_render p (hi ▸ hp)
    have hbcast : ∀ reg data, i ≠ .bcast reg data := fun reg data hi =>
      decodePair_ne_bcast p reg data (hi ▸ hp)
    rw [exec_of_decodePair hp] at h
    obtain ⟨-, ⟨-, f, -, rfl⟩ | ⟨-, -, rfl⟩ | ⟨-, -, -, rfl⟩ | ⟨-, rfl⟩⟩ := busWrite_next h
    · simp [hrender, hbcast, creg]
    · simpa [hrender, hbcast] using creg_congr (regs_shiftIn (some p) s.chips)
    · simp [hrender, hbcast, creg]
    · simpa [hrender, hbcast] using creg_congr (regs_shiftIn (some p) s.chips)

/-- Settles O27: the one update that writes the buffer is `POLL_BYTE`, of an idle machine, at `idx`. -/
theorem frameBufferWriters : Obligations.FrameBufferWriters := by
  intro s t hstep
  obtain ⟨-, hc⟩ := step_next hstep
  cases hc with
  | byte hb _ hn =>
    refine ⟨fun h => by simp [hb, hn] at h, fun a ha => ?_⟩
    simp [Memory.read_write, ha]
  | _ => exact ⟨fun _ _ => rfl, fun _ _ => rfl⟩

/-- Settles O33: the one update that writes `configured` is the `DEASSERT` of a `BCAST`, by the chips it leaves and the
pair it carried. -/
theorem configuredFollowsTheChips : Obligations.ConfiguredFollowsTheChips := by
  intro s t hstep
  have hdone : doneOut s = true → t = deassertSelect s := fun hd => by
    simpa [step_of_doneOut hd] using hstep.symm
  refine ⟨fun ho hd hi => ?_, fun ho hd hi hq => ?_, fun hne => ?_⟩
  · obtain rfl := hdone hd
    rw [deassertSelect_configured, configuredAfterDeassert_of_bcast ho]
    exact configuredAfter_of_initialised hi
  · obtain rfl := hdone hd
    rw [deassertSelect_configured, configuredAfterDeassert_of_bcast ho]
    exact configuredAfter_of_spoilsInit hi ((spoilsInit_iff _ _).2 hq)
  · obtain ⟨-, hc⟩ := step_next hstep
    cases hc with
    | deassert hb hs hj =>
      have ho : s.op = .bcast := bcast_of_configured_ne hne
      have hd : doneOut s = true :=
        (doneOut_of_step_deassert hb hs hj hstep).2 (lastTransaction_of_bcast ho)
      rw [deassertSelect_configured, configuredAfterDeassert_of_bcast ho] at hne ⊢
      refine ⟨⟨hb, ho, hd⟩, fun ht => ?_, fun ht => ?_⟩
      · have hw : s.configured = false := by rw [ht] at hne; simpa using hne.symm
        exact initialised_of_rise (hw ▸ ht)
      · have hw : s.configured = true := by rw [ht] at hne; simpa using hne.symm
        exact (spoilsInit_iff s.cfg ⟨s.breg, s.bdata⟩).1 (spoilsInit_of_fall (hw ▸ ht))
    | _ => exact absurd rfl hne

/-- Settles O48: what a poll delivers is the next byte, and the byte that is there is delivered once its poll is due. -/
theorem byteSourceDelivers : Obligations.ByteSourceDelivers := by
  refine ⟨fun h b hp => ?_, fun h b hb => ⟨h.due, poll_after_due (byteAt_of_listed hb)⟩,
    fun h he => ?_⟩
  · have hnext : h.byteAt h.consumed = some b := nextByte_of_poll hp
    refine ⟨hnext, fun hlen => ?_, fun he => ?_⟩
    · have hlisted : h.stream[h.consumed]? = some h.stream[h.consumed] :=
        List.getElem?_eq_getElem hlen
      rw [hlisted, ← byteAt_of_listed hlisted, hnext]
    · simpa [he] using ByteSource.listed_of_byteAt hnext
  · obtain ⟨b, hb⟩ := Option.isSome_iff_exists.1 (isSome_byteAt_of_endless he h.consumed)
    exact ⟨h.due, by simp [poll_after_due hb]⟩

end Sys2Proof.Safety
end

section
/-!
The memories (spec/20_memory.md): the addresses of the frame buffer, who moves while the machine is idle, what a poll
stores and what the buffer then holds of the stream, who reads the buffer, and the registers of the chips.
-/

namespace Sys2Proof.Machine

open Sys2Proof.Safety

/-! ### Addresses -/

/-- The one row and slot that read an address of the frame buffer (R75, R76). -/
theorem slotAddr_eq_iff {cfg : Config} {r : BitVec 3} {j a : Nat} (hj : j < cfg.modules)
    (ha : a < cfg.frameBytes) :
    slotAddr cfg r j = a ↔ r.toNat = a % 8 ∧ j = cfg.modules - 1 - a / 8 := by
  have hr : r.toNat < 8 := r.isLt
  simp only [Config.frameBytes] at ha
  simp only [slotAddr, frameAddr, slotModule]
  omega

/-! ### The Frame Assembler's turn -/

/-- No command is presented while it is `FA`'s turn (log entry 9). -/
theorem cmdPort_of_turn {s : State} (h : AssemblerTurn s) : cmdPort s = none := by
  obtain ⟨-, hb, hn, hc, hl⟩ := h
  simp [cmdPort, hb, hn, hc]

/-- In its turn `FA` polls (R127, R128). -/
theorem assemblerPolls_of_turn {s : State} (h : AssemblerTurn s) : assemblerPolls s = true := by
  have hport : cmdPort s = none := cmdPort_of_turn h
  obtain ⟨hf, hb, hn, -⟩ := h
  simp [assemblerPolls, hf, hb, hn, hport]

theorem pollStep_of_noData {s : State} (hp : s.source.poll = none) :
    pollStep s = pollNoData s := by
  simp [pollStep, hp]

theorem pollStep_of_byte {s : State} {b : Byte} (hp : s.source.poll = some b) :
    pollStep s = pollByte b s := by
  simp [pollStep, hp]

/-- A byte that does not complete the frame advances the index and nothing else of the machine (R128). -/
theorem pollByte_of_filling {s : State} (b : Byte) (hfull : completesFrame s = false) :
    pollByte b s =
      { s with
        fb := Memory.write s.fb s.idx b, source := s.source.afterByte, idx := s.idx + 1 } := by
  simp [pollByte, hfull]

/-- The byte that completes the frame hands it over (R129, R133). -/
theorem pollByte_of_completing {s : State} (b : Byte) (hfull : completesFrame s = true) :
    pollByte b s =
      { s with
        fb := Memory.write s.fb s.idx b, source := s.source.afterByte, idx := 0
        waiting := true, cmd := some renderWord, cmdIssuer := .assembler
        prog := afterFrame s.loopBody (currentLines s) } := by
  simp [pollByte, hfull]

/-- The byte that completes the frame is the one at the last offset. -/
theorem completesFrame_of_last {s : State} (h : s.idx + 1 = s.cfg.frameBytes) :
    completesFrame s = true := by
  simp [completesFrame, h]

/-- Within the buffer, only the last offset completes the frame. -/
theorem last_of_completesFrame {s : State} (hidx : s.idx < s.cfg.frameBytes)
    (hfull : completesFrame s = true) : s.idx + 1 = s.cfg.frameBytes := by
  have hlast : ¬ s.idx + 1 < s.cfg.frameBytes := by simpa [completesFrame] using hfull
  omega

/-- A `RENDER` line in front is the one that the hand-off presents (R133). -/
theorem passRender_of_render {w : CmdWord} (hw : w.getLsbD 16 = false) (rest : List EnvLine) :
    passRender (.command w :: rest) = rest := by
  simp [passRender, isRenderLine, hw, -BitVec.getLsbD_eq_getElem]

/-! ### The step of an idle block -/

/-- The update that `StepCase` names for an idle block is the one its step makes. -/
theorem step_of_stepCase {s t : State} (hf : s.fault = none) (hb : s.busy = false)
    (hcase : StepCase s t) : step s = .next t := by
  cases hcase with
  | breached h => simp [busy_of_breach h] at hb
  | assert h | shift h | deassert h => simp [h] at hb
  | acceptRender _ hc hw | acceptBcast _ hc hw =>
    rw [step_of_command hf hb hc, exec_decodeCmd hf hb, hw]; rfl
  | lineRender _ hc hn hl hw | lineBcast _ hc hn hl hw =>
    rw [step_of_line hf hb hn hc hl, exec_decodeCmd (s := presentLine _ _ s) hf hb, hw]; rfl
  | noData _ hc hn hl hp =>
    rw [step_of_assembler ⟨hf, hb, hn, hc, hl⟩, pollStep_of_noData hp]
  | byte _ hc hn hl hp =>
    rw [step_of_assembler ⟨hf, hb, hn, hc, hl⟩, pollStep_of_byte hp]

/-- No update of an idle block reads what other agents hold at the write port and on the bus (R193). -/
theorem stepCase_of_other_inputs {s t : State} (w : Option FbWrite) (e : Option BusEvent)
    (hb : s.busy = false) (hcase : StepCase s t) :
    StepCase { s with fbWrite := w, busDrive := e } { t with fbWrite := w, busDrive := e } := by
  cases hcase with
  | breached h => simp [busy_of_breach h] at hb
  | assert h | shift h | deassert h => simp [h] at hb
  | acceptRender _ hc hw => exact .acceptRender hb hc hw
  | acceptBcast _ hc hw => exact .acceptBcast hb hc hw
  | lineRender _ hc hn hl hw => exact .lineRender hb hc hn hl hw
  | lineBcast _ hc hn hl hw => exact .lineBcast hb hc hn hl hw
  | noData _ hc hn hl hp => exact .noData hb hc hn hl hp
  | byte _ hc hn hl hp => exact .byte hb hc hn hl hp

/-! ### The reads of the frame buffer -/

/-- The block reads the buffer in an undisturbed slot of a `RENDER`, at the slot's address (R94). -/
theorem slot_of_fbRaddr {s : State} {a : Nat} (h : fbRaddr s = some a) :
    s.op = .render ∧ s.busy = true ∧ s.sel = true ∧ s.j < s.cfg.modules ∧ s.fault = none ∧
      breach s = none ∧ a = slotAddr s.cfg s.r s.j := by
  cases ho : s.op with
  | bcast => simp [fbRaddr, ho] at h
  | render =>
    simp only [fbRaddr, ho, slotOpen, undisturbed, Option.ite_none_right_eq_some, Bool.and_eq_true,
      decide_eq_true_eq, Option.isNone_iff_eq_none, Option.some.injEq] at h
    obtain ⟨⟨⟨⟨hb, hs⟩, hj⟩, hf, hq⟩, ha⟩ := h
    exact ⟨rfl, hb, hs, hj, hf, hq, ha.symm⟩

/-! ### The trace of a `RENDER`, event by event -/

section

/-! Lists of one length `m`, one after another. -/

variable {α : Type} {f : Nat → List α} {m : Nat}

theorem length_flatMap_range (hlen : ∀ i, (f i).length = m) (n : Nat) :
    ((List.range n).flatMap f).length = n * m := by
  simp [List.length_flatMap, hlen]

/-- Element `k` of list `r`. -/
theorem getElem?_flatMap_range {n r k : Nat} (hlen : ∀ i, (f i).length = m) (hr : r < n)
    (hk : k < m) : ((List.range n).flatMap f)[r * m + k]? = (f r)[k]? := by
  have hlength := length_flatMap_range hlen
  induction n with
  | zero => exact absurd hr (Nat.not_lt_zero r)
  | succ n ih =>
    rw [List.range_succ, List.flatMap_append]
    obtain hlt | rfl := Nat.lt_succ_iff_lt_or_eq.1 hr
    · have hle : (r + 1) * m ≤ n * m := Nat.mul_le_mul_right m hlt
      rw [Nat.succ_mul] at hle
      rw [List.getElem?_append_left (by rw [hlength]; omega), ih hlt]
    · rw [List.getElem?_append_right (by rw [hlength]; omega), hlength, Nat.add_sub_cancel_left]
      simp

end

section

variable (cfg : Config) (fb : List Host.Cell)

theorem length_rowTxn (r : Nat) : (rowTxn cfg fb r).length = cfg.modules + 2 := by
  simp [rowTxn]

theorem length_renderTrace : (renderTrace cfg fb).length = 8 * (cfg.modules + 2) :=
  length_flatMap_range (length_rowTxn cfg fb) 8

/-- Event `k` of row `r` in the trace of a `RENDER` (R97). -/
theorem getElem?_renderTrace {r k : Nat} (hr : r < 8) (hk : k < cfg.modules + 2) :
    (renderTrace cfg fb)[r * (cfg.modules + 2) + k]? = (rowTxn cfg fb r)[k]? :=
  getElem?_flatMap_range (length_rowTxn cfg fb) hr hk

theorem getElem?_rowTxn_zero (r : Nat) : (rowTxn cfg fb r)[0]? = some .sa := rfl

/-- The writes of a row transaction are the pairs of its slots (R94). -/
theorem getElem?_rowTxn_slot (r : BitVec 3) {j : Nat} (hj : j < cfg.modules) :
    (rowTxn cfg fb r.toNat)[j + 1]? = some (.w (rowPair cfg fb r j)) := by
  simp [rowTxn, List.getElem?_append_left, hj, rowPair, rowReg_eq_succ, slotAddr, frameAddr,
    slotModule]

theorem getElem?_rowTxn_last (r : Nat) :
    (rowTxn cfg fb r)[cfg.modules + 1]? = some .sd := by
  simp [rowTxn]

end

/-- The trace of a `RENDER` is a function of the module count and the frame (R102). -/
theorem renderTrace_congr {cfg₁ cfg₂ : Config} {fb₁ fb₂ : List Host.Cell}
    (hm : cfg₁.modules = cfg₂.modules)
    (hfb : ∀ a, a < cfg₁.frameBytes → Memory.read fb₁ a = Memory.read fb₂ a) :
    renderTrace cfg₁ fb₁ = renderTrace cfg₂ fb₂ := by
  refine List.flatMap_congr fun r hr => ?_
  have hr : r < 8 := List.mem_range.1 hr
  simp only [rowTxn, ← hm]
  congr 2
  refine List.map_congr_left fun j hj => ?_
  have hj : j < cfg₁.modules := List.mem_range.1 hj
  rw [hfb _ (by simp only [Config.frameBytes]; omega)]

/-! ### A `RENDER` in progress -/

/-- A `RENDER` that no held input disturbs, `n` steps after its acceptance: the sequence position of R25. -/
structure RenderingAt (s : State) (n : Nat) : Prop where
  fault : s.fault = none
  quiet : s.fbWrite = none ∧ s.busDrive = none
  busy : s.busy = true
  op : s.op = .render
  slot : s.j ≤ s.cfg.modules
  closed : s.sel = false → s.j = 0
  position : n = s.r.toNat * (s.cfg.modules + 2) + if s.sel then s.j + 1 else 0

/-- A `RENDER` just accepted, in a disciplined run, is at its first step. -/
theorem renderingAt_zero {s : State} (h : AtFirstPosition s) (ho : s.op = .render)
    (hd : Disciplined s) : RenderingAt s 0 := by
  obtain ⟨hf, hb, hs, hr, hj⟩ := h
  exact ⟨hf, quiet_of_disciplined hd hb, hb, ho, by simp [hj], fun _ => hj, by simp [hs, hr]⟩

section

variable {s : State} {n : Nat}

theorem breach_of_rendering (h : RenderingAt s n) : breach s = none := by
  obtain ⟨hw, he⟩ := h.quiet
  exact breach_of_disciplined (disciplined_of_quiet hw he)

/-- Event `n` of the trace is the one of the sequence position (R93 to R95). -/
theorem event_of_rendering (h : RenderingAt s n) :
    (renderTrace s.cfg s.fb)[n]? =
      (rowTxn s.cfg s.fb s.r.toNat)[if s.sel then s.j + 1 else 0]? := by
  have hj := h.slot
  rw [h.position, getElem?_renderTrace _ _ s.r.isLt (by split_ifs <;> omega)]

/-- `ASSERT` opens the window of the row. -/
theorem renderingAt_assertSelect (h : RenderingAt s n) (hs : s.sel = false) :
    RenderingAt (assertSelect s) (n + 1) :=
  { h with
    closed := by simp
    position := by simp [h.position, hs, h.closed hs] }

/-- `SHIFT_ROW` goes on to the next slot. -/
theorem renderingAt_shiftPair (p : ChipCommand) (h : RenderingAt s n) (hs : s.sel = true)
    (hj : s.j < s.cfg.modules) : RenderingAt (shiftPair p s) (n + 1) :=
  { h with
    slot := hj
    closed := by simp [hs]
    position := by simp [h.position, hs, Nat.add_assoc] }

/-- `DEASSERT` of a row before the last goes on to the next row. -/
theorem renderingAt_deassertSelect (h : RenderingAt s n) (hs : s.sel = true)
    (hj : s.j = s.cfg.modules) (hn : n + 1 < 8 * (s.cfg.modules + 2)) :
    RenderingAt (deassertSelect s) (n + 1) := by
  have hpos : n + 1 = (s.r.toNat + 1) * (s.cfg.modules + 2) := by
    rw [h.position, hs, hj, Nat.succ_mul]; rfl
  have hr : s.r.toNat + 1 < 8 := Nat.lt_of_mul_lt_mul_right (hpos ▸ hn)
  have hne : s.r ≠ 7#3 := fun hlast => by simp [hlast] at hr
  have hl : lastTransaction s = false := by simp [lastTransaction, h.op, hne]
  have hnext : (s.r + 1).toNat = s.r.toNat + 1 := by
    rw [BitVec.toNat_add]; exact Nat.mod_eq_of_lt hr
  exact
    { h with
      busy := by simp [hl]
      slot := Nat.zero_le _
      closed := fun _ => rfl
      position := by rw [hpos, ← hnext]; simp [hl, -BitVec.toNat_add] }

/-- Every step of a `RENDER` emits the event of its trace that is next, and leaves the frame (R92 to R95). -/
theorem step_of_rendering (h : RenderingAt s n) :
    ∃ t, step s = .next t ∧ t.cfg = s.cfg ∧ t.fb = s.fb ∧
      t.trace = s.trace ++ (renderTrace s.cfg s.fb)[n]?.toList ∧
      (n + 1 < 8 * (s.cfg.modules + 2) → RenderingAt t (n + 1)) := by
  rw [event_of_rendering h]
  cases hs : s.sel with
  | false =>
    exact ⟨_, step_before_window h.fault (breach_of_rendering h) h.busy hs, rfl, rfl,
      by simp [getElem?_rowTxn_zero], fun _ => renderingAt_assertSelect h hs⟩
  | true =>
    obtain hj | hj := h.slot.lt_or_eq
    · exact ⟨_, step_in_slot h.fault (breach_of_rendering h) h.busy hs hj, rfl, rfl,
        by simp [getElem?_rowTxn_slot _ _ _ hj, slotPair, h.op],
        fun _ => renderingAt_shiftPair _ h hs hj⟩
    · exact ⟨_, step_after_slots h.fault (breach_of_rendering h) h.busy hs hj, rfl, rfl,
        by simp [hj, getElem?_rowTxn_last], renderingAt_deassertSelect h hs hj⟩

/-- The first `n` steps of a `RENDER` emit the first `n` events of its trace (R97). -/
theorem runFor_render (h : RenderingAt s 0) (hn : n ≤ 8 * (s.cfg.modules + 2)) :
    ∃ t, runFor n s = .next t ∧ t.cfg = s.cfg ∧ t.fb = s.fb ∧
      t.trace = s.trace ++ (renderTrace s.cfg s.fb).take n ∧
      (n < 8 * (s.cfg.modules + 2) → RenderingAt t n) := by
  induction n with
  | zero => exact ⟨s, rfl, rfl, rfl, by simp, fun _ => h⟩
  | succ n ih =>
    obtain ⟨t, hrun, hcfg, hfb, htrace, hat⟩ := ih (by omega)
    obtain ⟨u, hstep, hcfg', hfb', htrace', hat'⟩ := step_of_rendering (hat hn)
    refine ⟨u, ?_, hcfg'.trans hcfg, hfb'.trans hfb, ?_, hcfg ▸ hat'⟩
    · rw [runFor_add hrun, runFor_one, hstep]
    · rw [htrace', htrace, hcfg, hfb, List.take_add_one, List.append_assoc]

end

end Sys2Proof.Machine

namespace Sys2Proof.Safety

open Sys2Proof.Machine

section

/-! What `POLL_BYTE` does to the framing of the stream (R54, R130). -/

variable {s : State} {b : Byte}

/-- The index goes on with the number of bytes taken, back to 0 at the end of the frame. -/
theorem positional_pollByte (b : Byte) (h : Positional s) (hidx : s.idx < s.cfg.frameBytes) :
    Positional (pollByte b s) := by
  have hpos : s.idx = s.source.consumed % s.cfg.frameBytes := h
  have htaken : (pollByte b s).source.consumed % (pollByte b s).cfg.frameBytes =
      (s.idx + 1) % s.cfg.frameBytes := by
    rw [hpos, Nat.mod_add_mod]; rfl
  rw [Positional, htaken]
  cases hfull : completesFrame s with
  | false => simp [hfull, Nat.mod_eq_of_lt (completesFrame_eq_false_iff.1 hfull)]
  | true => simp [hfull, last_of_completesFrame hidx hfull]

/-- With the byte stored at `idx`, the buffer up to and with that offset holds the last bytes of the stream. -/
theorem byteAt_of_stored (h : Assembled s) (hp : s.source.poll = some b) {i : Nat}
    (hi : i < s.idx + 1) :
    s.source.byteAt (s.source.consumed - s.idx + i) =
      some (Memory.read (Memory.write s.fb s.idx b) i) := by
  obtain ⟨htaken, hbelow, -⟩ := h
  rw [Memory.read_write]
  obtain hlt | rfl := Nat.lt_succ_iff_lt_or_eq.1 hi
  · rw [if_neg hlt.ne, hbelow i hlt]
  · rw [if_pos rfl, Nat.sub_add_cancel htaken]
    exact nextByte_of_poll hp

/-- The buffer goes on holding the stream, and at the end of the frame all of it does. -/
theorem assembled_pollByte (h : Assembled s) (hidx : s.idx < s.cfg.frameBytes)
    (hn : s.waiting = false) (hp : s.source.poll = some b) : Assembled (pollByte b s) := by
  have htaken : s.idx ≤ s.source.consumed := h.1
  cases hfull : completesFrame s with
  | false =>
    rw [pollByte_of_filling b hfull]
    refine ⟨Nat.succ_le_succ htaken, fun i hi => ?_, fun hw => by simp [hn] at hw⟩
    simpa using byteAt_of_stored h hp hi
  | true =>
    have hlast : s.idx + 1 = s.cfg.frameBytes := last_of_completesFrame hidx hfull
    rw [pollByte_of_completing b hfull]
    refine ⟨Nat.zero_le _, fun _ hi => absurd hi (Nat.not_lt_zero _),
      fun _ => ⟨rfl, hlast ▸ Nat.succ_le_succ htaken, fun i hi => ?_⟩⟩
    have hi : i < s.idx + 1 := hlast ▸ hi
    simpa [← hlast] using byteAt_of_stored h hp hi

end

/-- Settles O47: the one update that takes a byte or moves the index is `POLL_BYTE`, which does both. That a step takes
one byte at most, as `ChannelLossless` asks, the model gives by itself. -/
theorem framingIsPositional : Obligations.FramingIsPositional := by
  intro s t hinv _ h hstep
  obtain ⟨-, hc⟩ := step_next hstep
  cases hc with
  | byte => exact positional_pollByte _ h hinv.index
  | _ => exact h

/-- Settles O52: `POLL_BYTE` stores the byte it takes, `DEASSERT` can only end the wait, and no other update touches the
buffer, the index or the stream. -/
theorem bufferHoldsTheStream : Obligations.BufferHoldsTheStream := by
  intro s t hinv _ h hstep
  obtain ⟨-, hc⟩ := step_next hstep
  cases hc with
  | byte _ _ hn _ hp => exact assembled_pollByte h hinv.index hn hp
  | deassert =>
    obtain ⟨htaken, hbelow, hwhole⟩ := h
    refine ⟨htaken, hbelow, fun hw => hwhole ?_⟩
    obtain ⟨hw, -⟩ : s.waiting = true ∧ lastTransaction s = false := by simpa using hw
    exact hw
  | _ => exact h

/-- Settles O29: of the updates that touch the chain, `SHIFT` moves pairs on and leaves every register file, `ASSERT`
leaves the chips, and `DEASSERT` is excluded. -/
theorem registersChangeOnlyOnDeassert : Obligations.RegistersChangeOnlyOnDeassert := by
  intro s t hstep hnot
  obtain ⟨-, hc⟩ := step_next hstep
  cases hc with
  | deassert hb hs hj => exact absurd ⟨hb, hs, hj⟩ hnot
  | shift => exact creg_congr (regs_shiftIn _ s.chips)
  | _ => exact creg_congr rfl

/-- Settles O39: the first `n` events of either run are those of the trace of its frame, and the two traces are one. -/
theorem renderDependsOnTheFrameAlone : Obligations.RenderDependsOnTheFrameAlone := by
  intro s₁ s₂ hfirst₁ hfirst₂ ho₁ ho₂ hd₁ hd₂ hm hfb n hn
  obtain ⟨t₁, hrun₁, -, -, htrace₁, -⟩ := runFor_render (renderingAt_zero hfirst₁ ho₁ hd₁) hn
  obtain ⟨t₂, hrun₂, -, -, htrace₂, -⟩ :=
    runFor_render (renderingAt_zero hfirst₂ ho₂ hd₂) (hm ▸ hn)
  refine ⟨t₁, t₂, (renderTrace s₁.cfg s₁.fb).take n, hrun₁, hrun₂, htrace₁, ?_, ?_⟩
  · rw [htrace₂, renderTrace_congr hm hfb]
  · simp [length_renderTrace, hn]

/-- Settles O40: the row is the address modulo 8 and the slot counts its quotient from the far end of the chain. -/
theorem eachByteReadOnce : Obligations.EachByteReadOnce := by
  refine fun cfg => ⟨fun r j => slotAddr_lt_frameBytes r, fun a ha => ?_⟩
  have hslot : cfg.modules - 1 - a / 8 < cfg.modules := by simp only [Config.modules]; omega
  have hrow : (BitVec.ofNat 3 (a % 8)).toNat = a % 8 := by simp
  refine ⟨(BitVec.ofNat 3 (a % 8), cfg.modules - 1 - a / 8),
    ⟨hslot, (slotAddr_eq_iff hslot ha).2 ⟨hrow, rfl⟩⟩, fun ⟨r, j⟩ ⟨hj, haddr⟩ => ?_⟩
  obtain ⟨hr, rfl⟩ := (slotAddr_eq_iff hj ha).1 haddr
  exact Prod.ext (BitVec.eq_of_toNat_eq (hr.trans hrow.symm)) rfl

/-- Settles O44: on its turn `FA` polls, and the byte goes to `idx`; at the last offset the frame is handed over. -/
theorem byteIsStored : Obligations.ByteIsStored := by
  intro s b hturn hp
  have hstep : step s = .next (pollByte b s) := by
    rw [step_of_assembler hturn, pollStep_of_byte hp]
  have hpolls : assemblerPolls s = true := assemblerPolls_of_turn hturn
  obtain ⟨-, hb, -⟩ := hturn
  refine ⟨by simp [fbPort, hb, hpolls, hp], _, hstep,
    fun a => Memory.read_write s.fb s.idx a b, rfl, fun hlt => ?_, fun hlast => ?_⟩
  · exact pollByte_of_filling b (completesFrame_eq_false_iff.2 hlt)
  · rw [pollByte_of_completing b (completesFrame_of_last hlast)]
    refine ⟨rfl, fun w rest hw => ⟨fun hl => ?_, fun hl hbody => ?_⟩⟩
    · simp [hl, afterFrame, passRender_of_render hw]
    · simp [hl, hbody, afterFrame, passRender_of_render hw]

/-- Settles O56: of the updates, the two polls alone touch the byte source, the buffer or the index, on `FA`'s turn; the
step that reads the buffer is `SHIFT_ROW`. -/
theorem phasesNeverOverlap : Obligations.PhasesNeverOverlap := by
  intro s t hstep
  refine ⟨fun hchange => ?_, fun a ha => ?_⟩
  · obtain ⟨hf, hc⟩ := step_next hstep
    cases hc with
    | noData hb hc hn hl | byte hb hc hn hl =>
      exact ⟨hb, hn, assemblerPolls_of_turn ⟨hf, hb, hn, hc, hl⟩⟩
    | _ => simp at hchange
  · obtain ⟨ho, hb, hs, hj, hf, hq, rfl⟩ := slot_of_fbRaddr ha
    obtain rfl : shiftPair (slotPair s) s = t := by
      simpa [step_in_slot hf hq hb hs hj] using hstep
    exact ⟨hb, ho, slotAddr_lt_frameBytes s.r hj, rfl, rfl⟩

/-- Settles O57: the updates of an idle block neither read nor write what other agents hold. -/
theorem noMoveOutOfTurn : Obligations.NoMoveOutOfTurn := by
  intro s t w e hb hstep
  obtain ⟨hf, hc⟩ := step_next hstep
  exact step_of_stepCase hf hb (stepCase_of_other_inputs w e hb hc)

end Sys2Proof.Safety
end

section
/-!
The encodings (spec/30_encoding.md): a word put together from its fields, the decoder on the bytes of any word, the row
commands as the block's own writes, and the command line of the program that the idle block accepts.
-/

namespace Sys2Proof

/-! ### Words and their fields -/

/-- A byte appended below a word moves the word up by a factor of 256. -/
theorem toNat_append_byte {n : Nat} (x : BitVec n) (d : Byte) :
    (x ++ d).toNat = 256 * x.toNat + d.toNat := by
  rw [BitVec.toNat_append, ← Nat.shiftLeft_add_eq_or_of_lt d.isLt, Nat.shiftLeft_eq, Nat.mul_comm]

theorem toNat_bcastWord (reg data : Byte) :
    (bcastWord reg data).toNat = 65536 + 256 * reg.toNat + data.toNat := by
  rw [bcastWord, toNat_append_byte, toNat_append_byte, BitVec.toNat_one Nat.one_pos]
  omega

theorem toNat_wordOfPair (p : ChipCommand) :
    (wordOfPair p).toNat = 256 * p.reg.toNat + p.data.toNat := toNat_append_byte p.reg p.data

/-- A command word is made up of its three fields (R73). -/
theorem cmdWord_of_fields (w : CmdWord) :
    w.extractLsb' 16 1 ++ w.extractLsb' 8 8 ++ w.extractLsb' 0 8 = w := by
  rw [BitVec.append_assoc, BitVec.extractLsb'_append_extractLsb'_eq_extractLsb' (rfl : 8 = 0 + 8)]
  exact (BitVec.extractLsb'_append_extractLsb'_eq_extractLsb' (rfl : 16 = 0 + (8 + 8))).trans
    BitVec.extractLsb'_eq_self

/-- A command word with bit 16 set is the word of the `BCAST` in its two lower fields (R73, R79). -/
theorem bcastWord_of_fields {w : CmdWord} (h : w.getLsbD 16 = true) :
    bcastWord (w.extractLsb' 8 8) (w.extractLsb' 0 8) = w := by
  have hopc : w.extractLsb' 16 1 = 1#1 := by
    ext i hi
    obtain rfl : i = 0 := by omega
    simp [h]
  rw [bcastWord, ← hopc, cmdWord_of_fields]

/-- A pair word is made up of its two fields (R72). -/
theorem wordOfPair_pairOfWord (w : PairWord) : wordOfPair (pairOfWord w) = w :=
  (BitVec.extractLsb'_append_extractLsb'_eq_extractLsb' (rfl : 8 = 0 + 8)).trans
    BitVec.extractLsb'_eq_self

@[simp] theorem pairOfWord_wordOfPair (p : ChipCommand) : pairOfWord (wordOfPair p) = p := by
  simp [pairOfWord]

theorem toNat_of_pairOfWord (w : PairWord) :
    w.toNat = 256 * (pairOfWord w).reg.toNat + (pairOfWord w).data.toNat := by
  rw [← toNat_wordOfPair, wordOfPair_pairOfWord]

/-- The register number of a pair word is what is left of it above its low byte (R72). -/
theorem reg_toNat_of_pairOfWord (w : PairWord) : (pairOfWord w).reg.toNat = w.toNat / 256 := by
  have hword := toNat_of_pairOfWord w
  have hdata : (pairOfWord w).data.toNat < 256 := (pairOfWord w).data.isLt
  omega

/-- A pair word whose register number is known: the data byte is the word's low byte (R72). -/
theorem pairOfWord_of_reg {w : PairWord} {reg : Byte} (h : w.toNat / 256 = reg.toNat) :
    pairOfWord w = ⟨reg, BitVec.ofNat 8 w.toNat⟩ := by
  have hreg : BitVec.ofNat 8 (w.toNat / 256) = reg := by simp [h]
  rw [← hreg, ← pairOfWord_ofNat, BitVec.ofNat_toNat, BitVec.setWidth_eq]

/-! ### The decoder -/

/-- `RENDER` ignores every bit but its `opc` (R82). -/
theorem decodeCmd_of_opc_clear {w : CmdWord} (h : w.getLsbD 16 = false) :
    decodeCmd w = .render := by
  rw [decodeCmd, if_neg (Bool.eq_false_iff.1 h)]

theorem decodeCmd_of_opc_set {w : CmdWord} (h : w.getLsbD 16 = true) :
    decodeCmd w = .bcast (w.extractLsb' 8 8) (w.extractLsb' 0 8) := by
  rw [decodeCmd, if_pos h]

theorem decodeCmd_bcastWord (reg data : Byte) :
    decodeCmd (bcastWord reg data) = .bcast reg data := by
  rw [decodeCmd_of_opc_set (opc_bcastWord reg data), extract_reg_bcastWord, extract_data_bcastWord]

/-- The bytes of a command word decode to what the word does: the third holds bit 16 alone (R82, log entry 4). -/
theorem decode_bytes_cmd (w : CmdWord) (rest : List Byte) :
    decode .cmd ((InstrWord.cmd w).bytes ++ rest) = .ok (decodeCmd w, rest) := by
  have hopc : ((w.extractLsb' 16 1).setWidth 8).toNat < 2 := by
    rw [BitVec.toNat_setWidth_of_le (by omega)]
    exact (w.extractLsb' 16 1).isLt
  have hword : ((w.extractLsb' 16 1).setWidth 8).setWidth 1 ++ w.extractLsb' 8 8 ++
      w.extractLsb' 0 8 = w := by
    rw [BitVec.setWidth_setWidth_of_le _ (by omega), BitVec.setWidth_eq, cmdWord_of_fields]
  simp only [InstrWord.bytes, List.cons_append, List.nil_append, decode, hopc, hword, if_true]

/-- The bytes of a pair word decode to what its pair does (R72, R80). -/
theorem decode_bytes_crc {w : PairWord} {i : Instr} (h : decodePair (pairOfWord w) = .ok i)
    (rest : List Byte) : decode .crc ((InstrWord.crc w).bytes ++ rest) = .ok (i, rest) := by
  unfold pairOfWord at h
  simp [decode, InstrWord.bytes, h]

/-- What a pair decodes to is encoded as that pair (R80). -/
theorem encode_of_decodePair {p : ChipCommand} {i : Instr} (h : decodePair p = .ok i) :
    encode i = .crc (wordOfPair p) := by
  have hreg : ∀ n : Nat, p.reg.toNat = n → p.reg = BitVec.ofNat 8 n := fun n hn => by simp [← hn]
  unfold decodePair at h
  split at h
  case h_9 => cases h
  all_goals
    cases h
    simp [encode, wordOfPair, hreg _ ‹_›]

/-- A register number outside `1..8` has no row in the opcode table (R81). -/
theorem decodePair_of_unnamed {p : ChipCommand} (h : p.reg.toNat = 0 ∨ 9 ≤ p.reg.toNat) :
    decodePair p = .error (.unnamedRegister p.reg) := by
  unfold decodePair
  split
  case h_9 => rfl
  all_goals omega

/-- The row commands with their register numbers (R80). -/
def rowCommands : List (Byte × (Byte → Instr)) :=
  [(1#8, .row1), (2#8, .row2), (3#8, .row3), (4#8, .row4),
    (5#8, .row5), (6#8, .row6), (7#8, .row7), (8#8, .row8)]

theorem decodePair_rowCommand (d : Byte) :
    ∀ x ∈ rowCommands, decodePair ⟨x.1, d⟩ = .ok (x.2 d) := by
  simp [rowCommands, decodePair]

end Sys2Proof

namespace Sys2Proof.Machine

/-! ### Instructions where the block takes them -/

/-- The pair of the block's own slot, executed as the instruction it decodes to, is the block's step (log entry 16). -/
theorem exec_in_slot {p : ChipCommand} {i : Instr} {s : State} (hp : decodePair p = .ok i)
    (hf : s.fault = none) (hq : breach s = none) (hb : s.busy = true) (hs : s.sel = true)
    (hj : s.j < s.cfg.modules) (hslot : slotPair s = p) : exec i s = .next (shiftPair p s) := by
  rw [exec_of_decodePair hp, busWrite_busy hf hb hq, txPair_open hf hq hb hs hj, hslot, if_pos rfl]

/-- A command word accepted by an idle block sets `busy`, empties the port and leaves the program (R91, R116). -/
theorem exec_decodeCmd_accepts (w : CmdWord) {s : State} (hf : s.fault = none)
    (hb : s.busy = false) :
    ∃ t, exec (decodeCmd w) s = .next t ∧ t.busy = true ∧ t.cmd = none ∧ t.prog = s.prog := by
  refine ⟨_, exec_decodeCmd hf hb, ?_⟩
  split_ifs
  · exact ⟨rfl, rfl, rfl⟩
  · exact ⟨rfl, rfl, rfl⟩

end Sys2Proof.Machine

namespace Sys2Proof.Safety

open Sys2Proof.Machine

/-- Settles O1: a command word's bytes decode to what the word does, a pair word's to what its pair does, and a row
command is encoded as the pair that decodes to it. -/
theorem decodeOfEncode : Obligations.DecodeOfEncode := by
  intro i rest
  obtain rfl | ⟨reg, data, rfl⟩ | ⟨p, hp⟩ := instr_command_or_row i
  · exact decode_bytes_cmd renderWord rest
  · exact (decode_bytes_cmd _ rest).trans (by rw [decodeCmd_bcastWord])
  · rw [encode_of_decodePair hp]
    exact decode_bytes_crc ((congrArg decodePair (pairOfWord_wordOfPair p)).trans hp) rest

/-- Settles O2: the operands are the two lower fields, of which the word is made up where bit 16 is set. -/
theorem commandWordFields : Obligations.CommandWordFields := by
  intro w
  refine ⟨decodeCmd_of_opc_clear, fun hopc => ⟨_, _, decodeCmd_of_opc_set hopc, ?_, ?_⟩⟩
  · rw [← toNat_bcastWord, bcastWord_of_fields hopc]
  · rw [encode, bcastWord_of_fields hopc]

/-- Settles O3: the register number is the word divided by 256, so it is a row command's or one without a row. -/
theorem pairWordFields : Obligations.PairWordFields := by
  intro w
  refine ⟨toNat_of_pairOfWord w, fun x hx hn => ?_, fun hn => ?_⟩
  · obtain ⟨y, hy, rfl⟩ := List.mem_map.1
      (show x ∈ rowCommands.map fun y => (y.1.toNat, y.2) from hx)
    have hdec : decodePair (pairOfWord w) = .ok (y.2 (BitVec.ofNat 8 w.toNat)) := by
      rw [pairOfWord_of_reg hn, decodePair_rowCommand _ y hy]
    exact ⟨hdec, by rw [encode_of_decodePair hdec, wordOfPair_pairOfWord]⟩
  · exact decodePair_of_unnamed (by rwa [reg_toNat_of_pairOfWord])

/-- Settles O4: the words of DV15, read by their fields. -/
theorem sampleWordsDecode : Obligations.SampleWordsDecode := by
  unfold Obligations.SampleWordsDecode
  decide

/-- Settles O23: the slot's pair is the row's number `r + 1` with the frame byte read there, so the row command is the
block's own write. -/
theorem rowCommandsInARenderSlot : Obligations.RowCommandsInARenderSlot := by
  intro x hx s d hf hd hb ho hs hj hr hbyte
  have hreg : rowReg s.r = x.1 := by rw [rowReg_eq_succ, hr, BitVec.ofNat_toNat, BitVec.setWidth_eq]
  have hslot : slotPair s = ⟨x.1, d⟩ := by
    simp only [slotPair, ho, rowPair, slotAddr, frameAddr, slotModule, hreg, hbyte]
  exact exec_in_slot (decodePair_rowCommand d x hx) hf (breach_of_disciplined hd) hb hs hj hslot

/-- Settles O24: the slot's pair is the operands of the `BCAST`, so the row command is the block's own write. -/
theorem rowCommandsInABroadcastSlot : Obligations.RowCommandsInABroadcastSlot := by
  intro x hx s d hf hd hb ho hs hj hreg hdata
  have hslot : slotPair s = ⟨x.1, d⟩ := by simp only [slotPair, ho, hreg, hdata]
  exact exec_in_slot (decodePair_rowCommand d x hx) hf (breach_of_disciplined hd) hb hs hj hslot

/-- Settles O50: the port carries the word of the line, and the idle block accepts it as it would a held one. -/
theorem programLineIsPresented : Obligations.ProgramLineIsPresented := by
  intro s w rest hf hb hn hc hl
  have hstep : step s = exec (decodeCmd w) (presentLine w rest s) := step_of_line hf hb hn hc hl
  exact ⟨cmdPort_of_line hb hn hc hl, hstep,
    hstep ▸ exec_decodeCmd_accepts w (s := presentLine w rest s) hf hb⟩

end Sys2Proof.Safety
end

section
/-!
The operation `RENDER` (spec/40_render.md): its acceptance, the steps of the block, what a whole `RENDER` does to the
trace and to the chain, and how every frame of the stream is handed over and reaches the display.
-/

namespace Sys2Proof.Machine

open Sys2Proof.Safety

/-! ### Commands at the port -/

theorem present_of_idle {accepted : State → State} {s : State} (hf : s.fault = none)
    (hb : s.busy = false) : present accepted s = .next (accepted s) := by
  simp [present, hf, hb]

theorem present_of_busy {accepted : State → State} {s : State} (hf : s.fault = none)
    (hb : s.busy = true) : present accepted s = .next s := by
  simp [present, hf, hb]

/-- The step of an idle block to which a `RENDER` is presented (R91). -/
theorem step_of_render_command {s : State} {w : CmdWord} (hf : s.fault = none)
    (hb : s.busy = false) (hc : s.cmd = some w) (hw : w.getLsbD 16 = false) :
    step s = .next (acceptRender s) := by
  rw [step_of_command hf hb hc, exec_decodeCmd hf hb, hw]; rfl

/-- No step of a busy block touches the command port (R180). -/
theorem cmd_of_busy_step {s t : State} (hb : s.busy = true) (hstep : step s = .next t) :
    t.cmd = s.cmd := by
  obtain ⟨-, hc⟩ := step_next hstep
  cases hc with
  | breached | assert | shift | deassert => rfl
  | acceptRender h | acceptBcast h | lineRender h | lineBcast h | noData h | byte h =>
    simp [hb] at h

/-! ### `DEASSERT` (R95) -/

theorem lastTransaction_of_render {s : State} (ho : s.op = .render) :
    lastTransaction s = true ↔ s.r.toNat = 7 := by
  simp [lastTransaction, ho, BitVec.toNat_eq]

theorem render_of_not_lastTransaction {s : State} (hl : lastTransaction s = false) :
    s.op = .render := by
  cases ho : s.op with
  | render => rfl
  | bcast => simp [lastTransaction_of_bcast ho] at hl

/-- No end of a transaction of a `RENDER` writes `configured` (R31). -/
theorem configuredAfterDeassert_of_render {s : State} (ho : s.op = .render) :
    configuredAfterDeassert s = s.configured := by
  simp [configuredAfterDeassert, ho]

/-- `DEASSERT` of a row before the last: the operation goes on with the next row. -/
theorem deassertSelect_of_inner {s : State} (hb : s.busy = true)
    (hl : lastTransaction s = false) :
    deassertSelect s =
      { s with
        sel := false, trace := s.trace ++ [.sd], j := 0, r := s.r + 1
        chips := react .sd s.chips } := by
  simp [deassertSelect, emit, hb, hl,
    configuredAfterDeassert_of_render (render_of_not_lastTransaction hl)]

/-- `DEASSERT` of the last transaction: the operation ends, and with it `FA`'s wait (R133). -/
theorem deassertSelect_of_last {s : State} (hl : lastTransaction s = true) :
    deassertSelect s =
      { s with
        sel := false, trace := s.trace ++ [.sd], j := 0, r := 0, busy := false
        waiting := false, configured := configuredAfterDeassert s
        chips := react .sd s.chips } := by
  simp [deassertSelect, emit, hl]

/-- `done` in an undisturbed step after the slots: the transaction is the last (R29, R95). -/
theorem doneOut_after_slots {s : State} (hf : s.fault = none) (hq : breach s = none)
    (hb : s.busy = true) (hs : s.sel = true) (hj : s.j = s.cfg.modules) :
    doneOut s = lastTransaction s := by
  simp [doneOut, undisturbed, hf, hq, hb, hs, hj]

/-! ### A `RENDER` from its acceptance to `done` -/

section

/-! The beginning of lists of one length `m`, one after another. -/

variable {α : Type} {f : Nat → List α} {m : Nat}

theorem take_flatMap_range {n q : Nat} (hlen : ∀ i, (f i).length = m) (hq : q ≤ n) :
    ((List.range n).flatMap f).take (q * m) = (List.range q).flatMap f := by
  obtain ⟨d, rfl⟩ := Nat.exists_eq_add_of_le hq
  rw [List.range_add, List.flatMap_append, ← length_flatMap_range hlen q, List.take_left]

/-- The first `q` lists and the first `i` elements of the next. -/
theorem take_flatMap_range_add {n q i : Nat} (hlen : ∀ i, (f i).length = m) (hq : q < n)
    (hi : i ≤ m) :
    ((List.range n).flatMap f).take (q * m + i) = (List.range q).flatMap f ++ (f q).take i := by
  have hle : q * m + i ≤ (q + 1) * m := by rw [Nat.succ_mul]; omega
  rw [← Nat.min_eq_left hle, ← List.take_take, take_flatMap_range hlen hq, List.range_succ,
    List.flatMap_append, ← length_flatMap_range hlen q, List.take_length_add_append]
  simp

end

/-- `t` is `s` but for what a `RENDER` in progress writes: the block's place in its sequence, `FA`'s wait, the trace and
the chain. -/
def SameButProgress (s t : State) : Prop :=
  t = { s with
    busy := t.busy, sel := t.sel, r := t.r, j := t.j, waiting := t.waiting
    trace := t.trace, chips := t.chips }

theorem SameButProgress.trans {s t u : State} (h₁ : SameButProgress s t)
    (h₂ : SameButProgress t u) : SameButProgress s u := by
  unfold SameButProgress at h₁ h₂ ⊢
  rw [h₁] at h₂
  exact h₂

section

variable {s t : State} {n : Nat}

theorem sameButProgress_of_step (h : RenderingAt s n) (hstep : step s = .next t) :
    SameButProgress s t := by
  obtain ⟨-, hc⟩ := step_next hstep
  cases hc with
  | breached hf => simp [breach_of_rendering h] at hf
  | assert | shift => rfl
  | deassert =>
    simp [SameButProgress, deassertSelect, emit, configuredAfterDeassert_of_render h.op]
  | acceptRender hb | acceptBcast hb | lineRender hb | lineBcast hb | noData hb | byte hb =>
    simp [h.busy] at hb

theorem sameButProgress_of_run (h : RenderingAt s 0) (hn : n ≤ 8 * (s.cfg.modules + 2))
    (hrun : runFor n s = .next t) : SameButProgress s t := by
  induction n generalizing t with
  | zero => cases hrun; rfl
  | succ n ih =>
    obtain ⟨u, hu, -, -, -, hat⟩ := runFor_render h (n := n) (by omega)
    rw [runFor_add hu, runFor_one] at hrun
    exact (ih (by omega) hu).trans (sameButProgress_of_step (hat hn) hrun)

/-- In the run of a `RENDER` the chain reacts to the events of its trace (R97). -/
theorem chips_of_render_run (h : RenderingAt s 0) (hn : n ≤ 8 * (s.cfg.modules + 2))
    (hrun : runFor n s = .next t) :
    t.chips = reactAll s.chips ((renderTrace s.cfg s.fb).take n) := by
  obtain ⟨u, hu, -, -, htrace, -⟩ := runFor_render h hn
  obtain rfl : t = u := by simpa [hu] using hrun.symm
  obtain ⟨events, hevents, hchips⟩ := runFor_events hrun
  rw [hchips, List.append_cancel_left (hevents.symm.trans htrace)]

/-- The last step of a `RENDER` is the `DEASSERT` of row 7 (R95). -/
theorem step_of_last_position (h : RenderingAt s n) (hn : n + 1 = 8 * (s.cfg.modules + 2)) :
    lastTransaction s = true ∧ step s = .next (deassertSelect s) := by
  have hpos := h.position
  have hslot := h.slot
  have hr : s.r.toNat = 7 := by
    by_contra hne
    have hle : s.r.toNat * (s.cfg.modules + 2) ≤ 6 * (s.cfg.modules + 2) :=
      Nat.mul_le_mul_right _ (by have := s.r.isLt; omega)
    split_ifs at hpos <;> omega
  have hend : (if s.sel then s.j + 1 else 0) = s.cfg.modules + 1 := by rw [hr] at hpos; omega
  have hs : s.sel = true := by by_contra hs; simp [hs] at hend
  have hj : s.j = s.cfg.modules := by simpa [hs] using hend
  exact ⟨(lastTransaction_of_render h.op).2 hr,
    step_after_slots h.fault (breach_of_rendering h) h.busy hs hj⟩

/-- A whole `RENDER`: the block is idle again, `FA`'s wait is over, and beside that the trace and the chain alone are
changed (R97). -/
theorem runFor_whole_render (h : RenderingAt s 0) :
    runFor (8 * (s.cfg.modules + 2)) s = .next
      { s with
        busy := false, sel := false, r := 0, j := 0, waiting := false
        trace := s.trace ++ renderTrace s.cfg s.fb
        chips := reactAll s.chips (renderTrace s.cfg s.fb) } := by
  obtain ⟨t, hrun, hcfg, -, -, hat⟩ := runFor_render h (n := 8 * s.cfg.modules + 15) (by omega)
  obtain ⟨u, hu, -, -, htrace, -⟩ := runFor_render h le_rfl
  have hchips := chips_of_render_run h le_rfl hu
  rw [← length_renderTrace s.cfg s.fb, List.take_length] at htrace hchips
  obtain ⟨hlast, hstep⟩ := step_of_last_position (hat (by omega)) (by rw [hcfg]; omega)
  obtain rfl : u = deassertSelect t := by
    have hrun' := runFor_add (n := 1) hrun
    rw [runFor_one, hstep] at hrun'
    exact Host.Outcome.next.inj (hu.symm.trans hrun')
  rw [hu, sameButProgress_of_run h le_rfl hu, htrace, hchips]
  simp [hlast]

end

/-! ### A `RENDER` presented to the idle block -/

/-- A disciplined machine whose idle block has a `RENDER` before it on the port. -/
structure RenderPresented (s : State) : Prop where
  fault : s.fault = none
  busy : s.busy = false
  closed : s.sel = false
  row : s.r = 0#3
  slot : s.j = 0
  disciplined : Disciplined s
  command : ∃ w, s.cmd = some w ∧ w.getLsbD 16 = false

/-- The state after the `done` of the `RENDER` presented in `s` (R97). -/
def afterRender (s : State) : State :=
  { s with
    op := .render, waiting := false, cmd := none, cmdIssuer := .other, opIssuer := s.cmdIssuer
    trace := s.trace ++ renderTrace s.cfg s.fb
    chips := reactAll s.chips (renderTrace s.cfg s.fb) }

section

variable {s : State}

theorem step_of_renderPresented (h : RenderPresented s) : step s = .next (acceptRender s) := by
  obtain ⟨w, hc, hw⟩ := h.command
  exact step_of_render_command h.fault h.busy hc hw

theorem renderingAt_of_renderPresented (h : RenderPresented s) :
    RenderingAt (acceptRender s) 0 := by
  have hrun : runFor 1 s = .next (acceptRender s) := by rw [runFor_one, step_of_renderPresented h]
  obtain ⟨hw, he⟩ := quiet_of_disciplined_run h.disciplined hrun rfl
  exact renderingAt_zero ⟨h.fault, rfl, h.closed, rfl, rfl⟩ rfl (disciplined_of_quiet hw he)

theorem runFor_of_renderPresented (h : RenderPresented s) (n : Nat) :
    runFor (1 + n) s = runFor n (acceptRender s) :=
  runFor_add (by rw [runFor_one, step_of_renderPresented h])

/-- A presented `RENDER` is accepted and runs to its end (R91, R97). -/
theorem runFor_presented_render (h : RenderPresented s) :
    runFor (1 + 8 * (s.cfg.modules + 2)) s = .next (afterRender s) := by
  rw [runFor_of_renderPresented h]
  refine (runFor_whole_render (renderingAt_of_renderPresented h)).trans (congrArg _ ?_)
  simp [afterRender, acceptRender, takeCommand, h.busy, h.closed, h.row, h.slot]

end

/-! ### The events of a `RENDER`, counted -/

section

variable (cfg : Config) (fb : List Host.Cell)

/-- Every row transaction has as many events of a kind as the others, and so eight times as many make up the trace. -/
theorem countP_renderTrace (p : BusEvent → Bool) {k : Nat}
    (h : ∀ r, (rowTxn cfg fb r).countP p = k) : (renderTrace cfg fb).countP p = 8 * k := by
  
  simp only [renderTrace, List.countP_flatMap, Function.comp_def, h]
  rw [List.map_const', List.length_range, List.sum_replicate_nat]

theorem count_sa_renderTrace : (renderTrace cfg fb).count .sa = 8 :=
  countP_renderTrace cfg fb (· == .sa) (k := 1) fun r => by simp [rowTxn, List.countP_eq_zero]

theorem count_sd_renderTrace : (renderTrace cfg fb).count .sd = 8 :=
  countP_renderTrace cfg fb (· == .sd) (k := 1) fun r => by simp [rowTxn, List.countP_eq_zero]

theorem countP_write_renderTrace :
    (renderTrace cfg fb).countP (fun e => e ≠ .sa ∧ e ≠ .sd) = 8 * cfg.modules :=
  countP_renderTrace cfg fb _ fun r => by simp [rowTxn, Function.comp_def]

end

/-! ### What a transaction leaves in the chain -/

@[simp] theorem length_reactAll (es : List BusEvent) (cs : List Chip) :
    (reactAll cs es).length = cs.length := by
  induction es generalizing cs with
  | nil => rfl
  | cons e es ih => exact (ih (react e cs)).trans (length_react e cs)

/-- Without an `SD` no chip latches: every register file stays (R60). -/
theorem regs_reactAll {es : List BusEvent} (h : .sd ∉ es) (cs : List Chip) :
    (reactAll cs es).map Chip.regs = cs.map Chip.regs := by
  induction es generalizing cs with
  | nil => rfl
  | cons e es ih =>
    obtain ⟨he, hes⟩ : BusEvent.sd ≠ e ∧ BusEvent.sd ∉ es := by simpa using h
    refine (ih hes (react e cs)).trans ?_
    cases e with
    | sa => rfl
    | w p => exact regs_shiftIn (some p) cs
    | sd => exact absurd rfl he

/-- After some writes the last of them stand in the shift stages, the latest in chip 0, and before them what stood there
moves on (R156). -/
theorem shiftStages_reactAll (ws : List ChipCommand) (cs : List Chip) :
    (reactAll cs (ws.map .w)).map Chip.sh =
      (ws.reverse.map some ++ cs.map Chip.sh).take cs.length := by
  induction ws generalizing cs with
  | nil => simp [reactAll]
  | cons p ws ih =>
    refine (ih (shiftIn (some p) cs)).trans ?_
    simp [shiftStages_shiftIn, List.take_append, List.take_take]

/-- `s` with its chain after a sequence of events. -/
def reacted (es : List BusEvent) (s : State) : State :=
  { s with chips := reactAll s.chips es }

section

variable {s t : State} {c : Nat}

@[simp] theorem reacted_chips (es : List BusEvent) (s : State) :
    (reacted es s).chips = reactAll s.chips es := rfl

theorem reacted_append (es fs : List BusEvent) (s : State) :
    reacted (es ++ fs) s = reacted fs (reacted es s) := by
  simp [reacted, reactAll_append]

theorem creg_of_chips {es : List BusEvent} (h : t.chips = reactAll s.chips es) (c : Nat)
    (a : Byte) : creg t c a = creg (reacted es s) c a := creg_congr (congrArg _ h) c a

/-- Without an `SD` no register is written (R60). -/
theorem creg_of_no_sd {es : List BusEvent} (h : .sd ∉ es) (c : Nat) (a : Byte) :
    creg (reacted es s) c a = creg s c a := creg_congr (regs_reactAll h s.chips) c a

theorem creg_of_length_le (h : s.chips.length ≤ c) (a : Byte) : creg s c a = none := by
  simp [creg, List.getElem?_eq_none h]

/-- On `SD` a chip that holds a pair writes that register (R157). -/
theorem creg_of_sd {p : ChipCommand} (hp : (s.chips.map Chip.sh)[c]? = some (some p)) (a : Byte) :
    creg (reacted [.sd] s) c a = if a = p.reg then some p.data else creg s c a := by
  obtain ⟨d, hd, hsh⟩ := by simpa using hp
  have hlatch : (reacted [.sd] s).chips[c]? = some d.latch := by simp [reactAll, react, hd]
  simp only [creg, hlatch, hd, Option.bind_some, Chip.creg_latch, hsh]

/-- After as many writes as there are chips, chip `c` holds the pair sent `c` before the last (R156). -/
theorem shiftStage_of_writes {ws : List ChipCommand} {p : ChipCommand} {cs : List Chip}
    (hc : c < cs.length) (hp : ws.reverse[c]? = some p) :
    ((reactAll cs (ws.map .w)).map Chip.sh)[c]? = some (some p) := by
  have hlt : c < (ws.reverse.map some).length := by
    simpa using (List.getElem?_eq_some_iff.1 hp).1
  rw [shiftStages_reactAll, List.getElem?_take_of_lt hc, List.getElem?_append_left hlt,
    List.getElem?_map, hp]
  rfl

/-- A transaction writes in chip `c` the pair sent `c` before the last, and no other register (R156, R157). -/
theorem creg_of_transaction {ws : List ChipCommand} {p : ChipCommand}
    (hc : c < s.chips.length) (hp : ws.reverse[c]? = some p) (a : Byte) :
    creg (reacted ([.sa] ++ ws.map .w ++ [.sd]) s) c a =
      if a = p.reg then some p.data else creg s c a := by
  have hstage : ((reacted ([.sa] ++ ws.map .w) s).chips.map Chip.sh)[c]? = some (some p) :=
    shiftStage_of_writes hc hp
  rw [reacted_append, creg_of_sd hstage, creg_of_no_sd (by simp)]

end

/-! ### What a `RENDER` leaves in the chain -/

/-- The pairs of a row transaction in the order of their slots (R94). -/
def rowWrites (cfg : Config) (fb : List Host.Cell) (r : Nat) : List ChipCommand :=
  (List.range cfg.modules).map fun j =>
    ⟨BitVec.ofNat 8 (r + 1), Memory.read fb (8 * (cfg.modules - 1 - j) + r)⟩

section

variable (cfg : Config) (fb : List Host.Cell)

theorem rowTxn_eq_rowWrites (r : Nat) :
    rowTxn cfg fb r = [.sa] ++ (rowWrites cfg fb r).map .w ++ [.sd] := by
  simp [rowTxn, rowWrites, Function.comp_def]

/-- The farther a chip, the earlier its pair: chip `c` gets the byte of module `c` (R75). -/
theorem getElem?_reverse_rowWrites (r : Nat) {c : Nat} (hc : c < cfg.modules) :
    (rowWrites cfg fb r).reverse[c]? =
      some ⟨BitVec.ofNat 8 (r + 1), Memory.read fb (8 * c + r)⟩ := by
  have hslot : cfg.modules - 1 - (cfg.modules - 1 - c) = c := by omega
  rw [List.getElem?_reverse (by simpa [rowWrites] using hc)]
  simp only [rowWrites, List.length_map, List.length_range, List.getElem?_map]
  rw [List.getElem?_range (by omega)]
  simp [hslot]

/-- All but the last event of a row transaction leave the registers alone. -/
theorem sd_notMem_take_rowTxn (r : Nat) {i : Nat} (hi : i < cfg.modules + 2) :
    .sd ∉ (rowTxn cfg fb r).take i := by
  rw [rowTxn_eq_rowWrites, List.take_append_of_le_length (by simp [rowWrites]; omega)]
  exact fun h => by simpa using List.mem_of_mem_take h

end

section

variable (cfg : Config) (fb : List Host.Cell) {s : State} {n c : Nat}

/-- A row transaction over `M` chips writes the row's register of every chip, and no other. -/
theorem creg_of_rowTxn (hlen : s.chips.length = cfg.modules) (r c : Nat) (a : Byte) :
    creg (reacted (rowTxn cfg fb r) s) c a =
      if c < cfg.modules ∧ a = BitVec.ofNat 8 (r + 1) then some (Memory.read fb (8 * c + r))
      else creg s c a := by
  by_cases hc : c < cfg.modules
  · rw [rowTxn_eq_rowWrites,
      creg_of_transaction (hlen ▸ hc) (getElem?_reverse_rowWrites cfg fb r hc)]
    simp [hc]
  · rw [if_neg fun h => hc h.1, creg_of_length_le (by simp; omega), creg_of_length_le (by omega)]

/-- The transactions of `n + 1` rows are those of `n` rows and one more. -/
theorem reacted_rows_succ (n : Nat) (s : State) :
    reacted ((List.range (n + 1)).flatMap (rowTxn cfg fb)) s =
      reacted (rowTxn cfg fb n) (reacted ((List.range n).flatMap (rowTxn cfg fb)) s) := by
  rw [← reacted_append]; simp [List.range_succ]

/-- The first `n` row transactions over `M` chips paint the first `n` rows. -/
theorem creg_of_painted_row {row : Nat} (hlen : s.chips.length = cfg.modules) (hn : n ≤ 8)
    (hc : c < cfg.modules) (hrow : row < n) :
    creg (reacted ((List.range n).flatMap (rowTxn cfg fb)) s) c (BitVec.ofNat 8 (row + 1)) =
      some (Memory.read fb (8 * c + row)) := by
  induction n with
  | zero => exact absurd hrow (Nat.not_lt_zero row)
  | succ n ih =>
    rw [reacted_rows_succ, creg_of_rowTxn cfg fb (by simpa using hlen)]
    obtain hlt | rfl := Nat.lt_succ_iff_lt_or_eq.1 hrow
    · have hne : BitVec.ofNat 8 (row + 1) ≠ BitVec.ofNat 8 (n + 1) := by
        simp [BitVec.toNat_eq]; omega
      rw [if_neg fun h => hne h.2, ih (by omega) hlt]
    · rw [if_pos ⟨hc, rfl⟩]

/-- They leave every other register as it was. -/
theorem creg_of_other_register {a : Byte} (hlen : s.chips.length = cfg.modules)
    (ha : ∀ row, row < n → a ≠ BitVec.ofNat 8 (row + 1)) (c : Nat) :
    creg (reacted ((List.range n).flatMap (rowTxn cfg fb)) s) c a = creg s c a := by
  induction n with
  | zero => rfl
  | succ n ih =>
    rw [reacted_rows_succ, creg_of_rowTxn cfg fb (by simpa using hlen),
      if_neg fun h => ha n (Nat.lt_succ_self n) h.2,
      ih fun row hr => ha row (Nat.lt_succ_of_lt hr)]

end

section

variable {s t : State} {n : Nat}

/-- After whole rows of a `RENDER` the registers are as their transactions leave them. -/
theorem creg_after_rows (h : RenderingAt s 0) (hn : n ≤ 8)
    (hrun : runFor (n * (s.cfg.modules + 2)) s = .next t) (c : Nat) (a : Byte) :
    creg t c a = creg (reacted ((List.range n).flatMap (rowTxn s.cfg s.fb)) s) c a := by
  refine creg_of_chips ?_ c a
  rw [chips_of_render_run h (Nat.mul_le_mul_right _ hn) hrun, renderTrace,
    take_flatMap_range (length_rowTxn s.cfg s.fb) hn]

/-- Within a row they are as the whole rows before it leave them. -/
theorem creg_within_row (h : RenderingAt s 0) {i : Nat} (hn : n < 8) (hi : i < s.cfg.modules + 2)
    (hrun : runFor (n * (s.cfg.modules + 2) + i) s = .next t) (c : Nat) (a : Byte) :
    creg t c a = creg (reacted ((List.range n).flatMap (rowTxn s.cfg s.fb)) s) c a := by
  have hle : (n + 1) * (s.cfg.modules + 2) ≤ 8 * (s.cfg.modules + 2) := Nat.mul_le_mul_right _ hn
  rw [Nat.succ_mul] at hle
  rw [creg_of_chips (chips_of_render_run h (by omega) hrun), renderTrace,
    take_flatMap_range_add (length_rowTxn s.cfg s.fb) hn hi.le, reacted_append,
    creg_of_no_sd (sd_notMem_take_rowTxn s.cfg s.fb n hi)]

/-- At every step of a `RENDER` a row register holds its byte of the frame or what it held before (R108). -/
theorem creg_within_render (h : RenderingAt s 0) (hlen : ChainLength s)
    (hn : n ≤ 8 * (s.cfg.modules + 2)) (hrun : runFor n s = .next t) {c row : Nat}
    (hc : c < s.cfg.modules) (hrow : row < 8) :
    creg t c (BitVec.ofNat 8 (row + 1)) = some (Memory.read s.fb (8 * c + row)) ∨
      creg t c (BitVec.ofNat 8 (row + 1)) = creg s c (BitVec.ofNat 8 (row + 1)) := by
  obtain hlt | rfl := hn.lt_or_eq
  · have hq : n / (s.cfg.modules + 2) < 8 := Nat.div_lt_of_lt_mul (by rwa [Nat.mul_comm])
    rw [creg_within_row h hq (Nat.mod_lt n (Nat.succ_pos _)) (by rwa [Nat.mul_comm, Nat.div_add_mod])]
    by_cases hr : row < n / (s.cfg.modules + 2)
    · exact .inl (creg_of_painted_row s.cfg s.fb hlen hq.le hc hr)
    · refine .inr (creg_of_other_register s.cfg s.fb hlen (fun k hk => ?_) c)
      simp [BitVec.toNat_eq]; omega
  · rw [creg_after_rows h le_rfl hrun]
    exact .inl (creg_of_painted_row s.cfg s.fb hlen le_rfl hc hrow)

end

/-! ### The premises along a run -/

section

variable {s t u : State} {m n : Nat}

theorem runFor_trans (h₁ : runFor m s = .next t) (h₂ : runFor n t = .next u) :
    runFor (m + n) s = .next u := (runFor_add h₁).trans h₂

theorem disciplined_of_run (h : Disciplined s) (hr : runFor m s = .next t) : Disciplined t :=
  ⟨fun _ u hu => h.1 _ u (runFor_trans hr hu), fun _ u hu => h.2 _ u (runFor_trans hr hu)⟩

theorem channelLossless_of_run (h : ChannelLossless s) (hr : runFor m s = .next t) :
    ChannelLossless t := by
  intro n u hu
  obtain ⟨hs, he, hpoll, htake⟩ := h _ u (runFor_trans hr hu)
  obtain ⟨hs', he'⟩ := runFor_stream hr
  exact ⟨hs.trans hs'.symm, he.trans he'.symm, hpoll, htake⟩

theorem byteAt_of_run (hr : runFor m s = .next t) (i : Nat) :
    t.source.byteAt i = s.source.byteAt i := by
  obtain ⟨hs, he⟩ := runFor_stream hr
  simp only [ByteSource.byteAt, hs, he]

theorem inv_of_run (h : Inv s) (hr : runFor m s = .next t) : Inv t :=
  runFor_keeps stepKeepsInv hr h

theorem chainLength_of_run (h : ChainLength s) (hr : runFor m s = .next t) : ChainLength t :=
  runFor_keeps (fun u v hu hstep => by
    obtain ⟨hcfg, hlen⟩ := parametersNeverChange u v hstep
    rw [ChainLength, hcfg, hlen, hu]) hr h

/-- In a disciplined run no contract is broken, so no fault is raised (R145). -/
theorem noFault_of_run (hd : Disciplined s) (hf : NoFault s) (hr : runFor m s = .next t) :
    NoFault t := by
  refine (runFor_keeps (P := fun u => Disciplined u ∧ NoFault u) (fun u v ⟨hd, hf⟩ hstep => ?_)
    hr ⟨hd, hf⟩).2
  refine ⟨disciplined_of_run (m := 1) hd (by rw [runFor_one, hstep]), ?_⟩
  obtain ⟨-, hc⟩ := step_next hstep
  cases hc with
  | breached hq => simp [breach_of_disciplined hd] at hq
  | _ => exact hf

/-- Framing stays positional (R130). -/
theorem positional_of_run (hinv : Inv s) (hch : ChannelLossless s) (h : Positional s)
    (hr : runFor m s = .next t) : Positional t :=
  (runFor_keeps (P := fun u => Inv u ∧ ChannelLossless u ∧ Positional u)
    (fun u v ⟨hinv, hch, h⟩ hstep => ⟨stepKeepsInv u v hinv hstep,
      channelLossless_of_run (m := 1) hch (by rw [runFor_one, hstep]),
      framingIsPositional u v hinv hch h hstep⟩) hr ⟨hinv, hch, h⟩).2.2

/-- The buffer goes on holding the stream (R130). -/
theorem assembled_of_run (hinv : Inv s) (hch : ChannelLossless s) (h : Assembled s)
    (hr : runFor m s = .next t) : Assembled t :=
  (runFor_keeps (P := fun u => Inv u ∧ ChannelLossless u ∧ Assembled u)
    (fun u v ⟨hinv, hch, h⟩ hstep => ⟨stepKeepsInv u v hinv hstep,
      channelLossless_of_run (m := 1) hch (by rw [runFor_one, hstep]),
      bufferHoldsTheStream u v hinv hch h hstep⟩) hr ⟨hinv, hch, h⟩).2.2

end

/-! ### A frame on its way to the display -/

section

variable {s : State} {c n : Nat} {r : BitVec 3}

/-- A hand-off presents the `RENDER` of the frame (R133). -/
theorem renderPresented_of_handOff (h : Inv s) (hf : s.fault = none) (hw : s.waiting = true)
    (hb : s.busy = false) (hd : Disciplined s) : RenderPresented s := by
  obtain ⟨hs, hr, hj⟩ := h.idle hb
  obtain ⟨hbusy, -⟩ | ⟨-, hc, -⟩ := h.handOff hw
  · simp [hb] at hbusy
  · exact ⟨hf, hb, hs, hr, hj, hd, renderWord, hc, rfl⟩

theorem shownRow_of_configured (h : s.configured = true) :
    shownRow s c r = creg s c (BitVec.ofNat 8 (r.toNat + 1)) := by
  rw [shownRow, if_pos h, rowReg_eq_succ]

/-- After the `done` each module shows its segment of the frame (R107, R160). -/
theorem shownRow_afterRender (hlen : ChainLength s) (hconf : Configured s)
    (hc : c < s.cfg.modules) :
    shownRow (afterRender s) c r = some (Memory.read s.fb (8 * c + r.toNat)) := by
  rw [shownRow_of_configured (s := afterRender s) hconf]
  exact creg_of_painted_row s.cfg s.fb hlen le_rfl hc r.isLt

/-- On the way each row shows its byte of the new frame or what it showed before (R108, R161). -/
theorem shownRow_within_render (h : RenderPresented s) (hlen : ChainLength s)
    (hconf : Configured s) (hn : n ≤ 1 + 8 * (s.cfg.modules + 2)) :
    ∃ u, runFor n s = .next u ∧ ∀ c r, c < s.cfg.modules →
      shownRow u c r = some (Memory.read s.fb (8 * c + r.toNat)) ∨
        shownRow u c r = shownRow s c r := by
  cases n with
  | zero => exact ⟨s, rfl, fun _ _ _ => .inr rfl⟩
  | succ n =>
    have hat : RenderingAt (acceptRender s) 0 := renderingAt_of_renderPresented h
    have hn : n ≤ 8 * ((acceptRender s).cfg.modules + 2) := by simp only [acceptRender_cfg]; omega
    obtain ⟨u, hrun, -⟩ := runFor_render hat hn
    have hconfu : u.configured = true := by rw [sameButProgress_of_run hat hn hrun]; exact hconf
    refine ⟨u, by rw [Nat.add_comm, runFor_of_renderPresented h, hrun], fun c r hc => ?_⟩
    rw [shownRow_of_configured hconfu, shownRow_of_configured hconf]
    exact creg_within_render hat hlen hn hrun hc r.isLt

/-- At a hand-off after `f + 1` whole frames the buffer holds frame `f` of the stream (R54, R130). -/
theorem byteAt_of_handOff {f i : Nat} (h : Assembled s) (hw : s.waiting = true)
    (hf : s.source.consumed = s.cfg.frameBytes * (f + 1)) (hi : i < s.cfg.frameBytes) :
    s.source.byteAt (s.cfg.frameBytes * f + i) = some (Memory.read s.fb i) := by
  obtain ⟨-, -, hwhole⟩ := h
  obtain ⟨-, -, hbytes⟩ := hwhole hw
  rw [← hbytes i hi, hf, Nat.mul_succ, Nat.add_sub_cancel]

/-- A hand-off comes after a whole number of frames (R130). -/
theorem wholeFrames_of_handOff (hpos : Positional s) (h : Assembled s) (hw : s.waiting = true) :
    ∃ f, s.source.consumed = s.cfg.frameBytes * (f + 1) := by
  obtain ⟨-, -, hwhole⟩ := h
  obtain ⟨hidx, htaken, -⟩ := hwhole hw
  have hframe : 0 < s.cfg.frameBytes := by simp [Config.frameBytes, Config.modules]
  obtain ⟨k, hk⟩ : s.cfg.frameBytes ∣ s.source.consumed :=
    Nat.dvd_of_mod_eq_zero (hpos.symm.trans hidx)
  cases k with
  | zero => omega
  | succ f => exact ⟨f, hk⟩

/-- After the `done` of a handed-over frame each module shows its segment of that frame of the stream. -/
theorem shownRow_of_stream {f : Nat} (hlen : ChainLength s) (hconf : Configured s)
    (h : Assembled s) (hw : s.waiting = true)
    (hf : s.source.consumed = s.cfg.frameBytes * (f + 1)) (hc : c < s.cfg.modules) :
    shownRow (afterRender s) c r =
      s.source.byteAt (s.cfg.frameBytes * f + (8 * c + r.toNat)) := by
  have hi : 8 * c + r.toNat < s.cfg.frameBytes := by
    have hr := r.isLt
    simp only [Config.frameBytes]; omega
  rw [shownRow_afterRender hlen hconf hc, byteAt_of_handOff h hw hf hi]

end

/-! ### The main loop -/

/-- `FA`'s turn at the start of the main loop (R134). -/
structure InMainLoop (s : State) : Prop where
  turn : AssemblerTurn s
  prog : s.prog = []
  body : s.loopBody = [.accumulate, renderLine]

section

variable {s : State} {b : Byte}

theorem step_of_byte (h : InMainLoop s) (hp : s.source.poll = some b) :
    step s = .next (pollByte b s) := by
  rw [step_of_assembler h.turn, pollStep_of_byte hp]

theorem inMainLoop_pollNoData (h : InMainLoop s) : InMainLoop (pollNoData s) := { h with }

theorem inMainLoop_of_filling (b : Byte) (h : InMainLoop s) (hfull : completesFrame s = false) :
    InMainLoop (pollByte b s) := by
  rw [pollByte_of_filling b hfull]
  exact { h with }

/-- The byte that completes a frame hands it over, and the loop is left before its `RENDER` line (R133). -/
theorem renderPresented_of_completing (hinv : Inv s) (h : InMainLoop s) (hd : Disciplined s)
    (hp : s.source.poll = some b) (hfull : completesFrame s = true) :
    RenderPresented (pollByte b s) := by
  have hrun : runFor 1 s = .next (pollByte b s) := by rw [runFor_one, step_of_byte h hp]
  obtain ⟨hf, hb, -⟩ := h.turn
  exact renderPresented_of_handOff (inv_of_run hinv hrun) hf (by simp [hfull]) hb
    (disciplined_of_run hd hrun)

/-- The line passed over is the one whose `RENDER` the hand-off presents, so the loop begins again (log entry 8). -/
theorem inMainLoop_afterRender (b : Byte) (h : InMainLoop s) (hfull : completesFrame s = true) :
    InMainLoop (afterRender (pollByte b s)) := by
  have hprog : (afterRender (pollByte b s)).prog = [] := by
    simp [afterRender, hfull, currentLines, h.prog, h.body, afterFrame, renderLine, renderWord,
      passRender, isRenderLine]
  have hlines : currentLines (afterRender (pollByte b s)) = [.accumulate, renderLine] := by
    rw [currentLines, hprog]; exact h.body
  obtain ⟨hf, hb, -⟩ := h.turn
  exact ⟨⟨hf, hb, rfl, rfl, by simp [hlines]⟩, hprog, h.body⟩

/-- `FA` polls until the byte comes; the polls before it leave the loop and the stream as they are (R127). -/
theorem runFor_polls {k : Nat} (h : InMainLoop s)
    (hk : (Nat.repeat ByteSource.afterNoData k s.source).poll = some b) :
    ∃ n t b, runFor n s = .next t ∧ InMainLoop t ∧ t.source.poll = some b ∧
      t.source.consumed = s.source.consumed := by
  induction k generalizing s with
  | zero => exact ⟨0, s, b, rfl, h, hk, rfl⟩
  | succ k ih =>
    cases hp : s.source.poll with
    | some b => exact ⟨0, s, b, rfl, h, hp, rfl⟩
    | none =>
      have hstep : step s = .next (pollNoData s) := by
        rw [step_of_assembler h.turn, pollStep_of_noData hp]
      obtain ⟨n, t, b, hrun, ht⟩ := ih (inMainLoop_pollNoData h) (by
        rw [repeat_afterNoData] at hk ⊢
        simpa [ByteSource.afterNoData, Nat.add_assoc, Nat.add_comm 1 k] using hk)
      exact ⟨1 + n, t, b, runFor_trans (by rw [runFor_one, hstep]) hrun, ht⟩

/-- After a byte, and the `RENDER` of the frame it may complete, the loop begins again (R134). -/
theorem runFor_to_mainLoop (hinv : Inv s) (h : InMainLoop s) (hd : Disciplined s)
    (hp : s.source.poll = some b) :
    ∃ n t, runFor n (pollByte b s) = .next t ∧ InMainLoop t ∧
      t.source.consumed = s.source.consumed + 1 := by
  cases hfull : completesFrame s with
  | false => exact ⟨0, pollByte b s, rfl, inMainLoop_of_filling b h hfull, rfl⟩
  | true =>
    exact ⟨_, _, runFor_presented_render (renderPresented_of_completing hinv h hd hp hfull),
      inMainLoop_afterRender b h hfull, rfl⟩

/-- The last byte of a frame of the stream completes a frame in the buffer (R130). -/
theorem completesFrame_of_positional {f : Nat} (h : Positional s)
    (hf : s.source.consumed + 1 = s.cfg.frameBytes * (f + 1)) : completesFrame s = true := by
  by_contra hnot
  have hlt : s.idx + 1 < s.cfg.frameBytes :=
    completesFrame_eq_false_iff.1 (by simpa using hnot)
  have hmod : (s.idx + 1) % s.cfg.frameBytes = 0 := by
    rw [show s.idx = s.source.consumed % s.cfg.frameBytes from h, Nat.mod_add_mod, hf,
      Nat.mul_mod_right]
  simp [Nat.mod_eq_of_lt hlt] at hmod

/-- In a fair run the byte that is there comes to be delivered, with the loop at its start (R137). -/
theorem runFor_to_byte {n : Nat} {t : State} (hfair : Fair s) (hr : runFor n s = .next t)
    (h : InMainLoop t) (hb : (s.source.byteAt t.source.consumed).isSome = true) :
    ∃ n u b, runFor n s = .next u ∧ InMainLoop u ∧ u.source.poll = some b ∧
      u.source.consumed = t.source.consumed := by
  obtain ⟨b, hb⟩ := Option.isSome_iff_exists.1 hb
  obtain ⟨k, hk⟩ := hfair n t b hr ((byteAt_of_run hr _).trans hb)
  obtain ⟨m, u, b, hrun, hu⟩ := runFor_polls h hk
  exact ⟨n + m, u, b, runFor_trans hr hrun, hu⟩

/-- With `d` bytes of the stream before it, the last byte of frame `f` comes to be delivered, with the loop at its start. -/
theorem runFor_to_last_byte {f d n : Nat} {t : State} (hinv : Inv s) (hd : Disciplined s)
    (hfair : Fair s)
    (hbytes : ∀ i, i < s.cfg.frameBytes * (f + 1) → (s.source.byteAt i).isSome = true)
    (hr : runFor n s = .next t) (h : InMainLoop t)
    (hleft : t.source.consumed + d + 1 = s.cfg.frameBytes * (f + 1)) :
    ∃ n u b, runFor n s = .next u ∧ InMainLoop u ∧ u.source.poll = some b ∧
      u.source.consumed + 1 = s.cfg.frameBytes * (f + 1) := by
  induction d generalizing n t with
  | zero =>
    obtain ⟨m, u, b, hrun, hu, hp, hcons⟩ := runFor_to_byte hfair hr h (hbytes _ (by omega))
    exact ⟨m, u, b, hrun, hu, hp, by omega⟩
  | succ d ih =>
    obtain ⟨m, u, b, hrun, hu, hp, hcons⟩ := runFor_to_byte hfair hr h (hbytes _ (by omega))
    obtain ⟨k, v, hk, hv, hcons'⟩ :=
      runFor_to_mainLoop (inv_of_run hinv hrun) hu (disciplined_of_run hd hrun) hp
    have hstep : runFor 1 u = .next (pollByte b u) := by rw [runFor_one, step_of_byte hu hp]
    exact ih (runFor_trans (runFor_trans hrun hstep) hk) hv (by omega)

end

end Sys2Proof.Machine

namespace Sys2Proof.Safety

open Sys2Proof.Machine

/-- Settles O9: a presented command and a pair in its slot are executed as what they decode to. -/
theorem stepRunsTheDecodedInstruction : Obligations.StepRunsTheDecodedInstruction := by
  refine ⟨fun s w => step_of_command, fun s i hf hd hb hs hj hi => ?_⟩
  have hq : breach s = none := breach_of_disciplined hd
  rw [step_in_slot hf hq hb hs hj, exec_in_slot hi hf hq hb hs hj rfl]

/-- Settles O13: the idle block accepts, the busy one holds; the word after reset is accepted as any other. -/
theorem renderIsAccepted : Obligations.RenderIsAccepted := by
  refine ⟨fun s hf hb => ⟨acceptRender s, present_of_idle hf hb, rfl⟩,
    fun s w hf hb hc hw => ⟨acceptRender s, step_of_render_command hf hb hc hw, rfl⟩,
    fun s hf hb => present_of_busy hf hb, fun s t => cmd_of_busy_step, ?_⟩
  exact ⟨_, step_of_render_command (w := 0#17) rfl rfl rfl rfl, rfl, rfl, rfl, rfl, rfl⟩

/-- Settles O16: either command is held by a busy block, no step of which touches the port, and taken by an idle one. -/
theorem presentedCommandIsHeld : Obligations.PresentedCommandIsHeld := by
  refine ⟨fun s reg data hf hb => ⟨present_of_busy hf hb, present_of_busy hf hb⟩,
    fun s t => cmd_of_busy_step, fun s hf hb hc => ?_⟩
  obtain ⟨w, hw⟩ := Option.isSome_iff_exists.1 hc
  obtain ⟨t, hexec, hbusy, hcmd, -⟩ := exec_decodeCmd_accepts w hf hb
  exact ⟨t, (step_of_command hf hb hw).trans hexec, hbusy, hcmd⟩

/-- Settles O17: undisturbed, a closed window opens, and `SA` moves nothing in the chain (R155). -/
theorem assertStep : Obligations.AssertStep := fun _ hf hd hb hs =>
  step_before_window hf (breach_of_disciplined hd) hb hs

/-- Settles O20: the window closes after its last slot, with the next row before it or the end of the operation. -/
theorem deassertStep : Obligations.DeassertStep := by
  intro s hf hd hb hs hj
  have hq : breach s = none := breach_of_disciplined hd
  have hstep : step s = .next (deassertSelect s) := step_after_slots hf hq hb hs hj
  rw [doneOut_after_slots hf hq hb hs hj, hstep]
  refine ⟨fun ⟨ho, hr⟩ => ?_, fun ⟨ho, hr⟩ => ?_, fun ho => ?_⟩
  · have hl : lastTransaction s = false :=
      Bool.eq_false_iff.2 fun hl => hr.ne ((lastTransaction_of_render ho).1 hl)
    exact ⟨hl, congrArg _ (deassertSelect_of_inner hb hl)⟩
  · have hl : lastTransaction s = true := (lastTransaction_of_render ho).2 hr
    refine ⟨hl, congrArg _ ((deassertSelect_of_last hl).trans ?_)⟩
    rw [configuredAfterDeassert_of_render ho]; rfl
  · have hl : lastTransaction s = true := lastTransaction_of_bcast ho
    exact ⟨hl, configuredAfterDeassert s, congrArg _ (deassertSelect_of_last hl)⟩

/-- Settles O35: the acceptance and the whole `RENDER` after it, with the events of its trace counted row by row. -/
theorem renderRunsToItsTrace : Obligations.RenderRunsToItsTrace :=
  ⟨fun s w hf hb hs hr hj hd hc hw =>
    ⟨afterRender s, runFor_presented_render ⟨hf, hb, hs, hr, hj, hd, w, hc, hw⟩, rfl⟩,
    fun cfg fb => ⟨length_renderTrace cfg fb, count_sa_renderTrace cfg fb,
      count_sd_renderTrace cfg fb, countP_write_renderTrace cfg fb⟩⟩

/-- Settles O37: the first `n` rows of the trace are `n` row transactions, each of which paints its row. -/
theorem renderPaintsRowByRow : Obligations.RenderPaintsRowByRow := by
  intro s hfirst ho hd hlen n hn
  have h : RenderingAt s 0 := renderingAt_zero hfirst ho hd
  obtain ⟨t, hrun, -⟩ := runFor_render h (Nat.mul_le_mul_right (s.cfg.modules + 2) hn)
  refine ⟨t, hrun, fun c row hc hrow => ?_, fun c a ha => ?_⟩
  · rw [creg_after_rows h hn hrun, creg_of_painted_row s.cfg s.fb hlen hn hc hrow]
  · rw [creg_after_rows h hn hrun, creg_of_other_register s.cfg s.fb hlen ha]

/-- Settles O51: the hand-off presents the `RENDER`, which paints the frame row by row; every register of a row is written
in one step. -/
theorem frameReachesTheDisplay : Obligations.FrameReachesTheDisplay := by
  intro s hinv hf hw hb hd hlen hconf _ _
  have h : RenderPresented s := renderPresented_of_handOff hinv hf hw hb hd
  exact ⟨⟨afterRender s, runFor_presented_render h, rfl,
      fun c r hc => shownRow_afterRender hlen hconf hc,
      fun hasm f hf c r hc => shownRow_of_stream hlen hconf hasm hw hf hc⟩,
    fun n hn => shownRow_within_render h hlen hconf hn⟩

/-- Settles O54: the completing poll hands the frame over, its one `RENDER` runs, and the line `RENDER` is passed. -/
theorem mainLoopRendersEachFrameOnce : Obligations.MainLoopRendersEachFrameOnce := by
  intro s b hinv hturn hd _ hprog hbody hp hlast
  have h : InMainLoop s := ⟨hturn, hprog, hbody⟩
  have hfull : completesFrame s = true := completesFrame_of_last hlast
  have hstep : runFor 1 s = .next (pollByte b s) := by rw [runFor_one, step_of_byte h hp]
  have hrender := runFor_presented_render (renderPresented_of_completing hinv h hd hp hfull)
  have hloop : InMainLoop (afterRender (pollByte b s)) := inMainLoop_afterRender b h hfull
  refine ⟨afterRender (pollByte b s), ?_, rfl, fun a => Memory.read_write s.fb s.idx a b,
    hloop.turn, by simp [afterRender, hfull], hloop.prog, rfl, rfl⟩
  have hrun := runFor_trans hstep hrender
  rwa [← Nat.add_assoc] at hrun

/-- Settles O59: byte after byte is delivered and taken, and the last one of frame `f` hands it over. -/
theorem everyFrameIsHandedOver : Obligations.EveryFrameIsHandedOver := by
  intro s hinv hturn hpos hd hch hfair hprog hbody f hless hbytes
  obtain ⟨d, hleft⟩ := Nat.exists_eq_add_of_lt hless
  obtain ⟨n, u, b, hrun, hu, hp, hlast⟩ :=
    runFor_to_last_byte (n := 0) hinv hd hfair hbytes rfl ⟨hturn, hprog, hbody⟩ hleft.symm
  obtain ⟨-, -, hcfg⟩ := runFor_inputs hrun
  have hfull : completesFrame u = true :=
    completesFrame_of_positional (positional_of_run hinv hch hpos hrun) (hcfg ▸ hlast)
  obtain ⟨-, hb, -⟩ := hu.turn
  refine ⟨n + 1, pollByte b u, ?_, by simp [hfull], hb, by simp [hfull, renderWord],
    by simp [hfull], hlast⟩
  rw [runFor_add hrun, runFor_one, step_of_byte hu hp]

/-- Settles O60: the premises hold at the hand-off too, and what is then shown is what the buffer holds of the stream. -/
theorem everyFrameOfTheStreamIsShown : Obligations.EveryFrameOfTheStreamIsShown := by
  intro s hf hinv hpos hasm hlen hd hch _ n t hr hw hb hconf
  have hasm : Assembled t := assembled_of_run hinv hch hasm hr
  obtain ⟨f, hcons⟩ := wholeFrames_of_handOff (positional_of_run hinv hch hpos hr) hasm hw
  have h : RenderPresented t := renderPresented_of_handOff (inv_of_run hinv hr)
    (noFault_of_run hd hf hr) hw hb (disciplined_of_run hd hr)
  obtain ⟨-, -, hcfg⟩ := runFor_inputs hr
  rw [← hcfg]
  refine ⟨f, afterRender t, hcons, runFor_presented_render h, rfl, fun c r hc => ?_⟩
  rw [shownRow_of_stream (chainLength_of_run hlen hr) hconf hasm hw hcons hc, byteAt_of_run hr]

end Sys2Proof.Safety
end

section
/-!
The operation `BCAST` (spec/41_broadcast.md): its acceptance, the steps of its one transaction, what a whole `BCAST` does
to the trace and to the chain, and the five of `INIT` that the boot sequence runs.
-/

namespace Sys2Proof.Machine

open Sys2Proof.Safety

/-! ### The acceptance (R116) -/

section

variable {s : State} {w : CmdWord}

/-- The step of an idle block to which a `BCAST` is presented. -/
theorem step_of_bcast_command (hf : s.fault = none) (hb : s.busy = false) (hc : s.cmd = some w)
    (hw : w.getLsbD 16 = true) :
    step s = .next (acceptBcast (w.extractLsb' 8 8) (w.extractLsb' 0 8) s) := by
  rw [step_of_command hf hb hc, exec_decodeCmd hf hb, hw]; rfl

/-- The step of an idle machine whose next line is a `BCAST`. -/
theorem step_of_bcast_line {p : ChipCommand} {rest : List EnvLine} (hf : s.fault = none)
    (hb : s.busy = false) (hn : s.waiting = false) (hc : s.cmd = none)
    (hl : currentLines s = bcastLine p :: rest) :
    step s =
      .next (acceptBcast p.reg p.data (presentLine (bcastWord p.reg p.data) rest s)) := by
  rw [step_of_line hf hb hn hc hl, decodeCmd_bcastWord, exec_bcast]
  exact present_of_idle hf hb

end

/-! ### A `BCAST` from its acceptance to `done` -/

theorem slotPair_of_bcast {s : State} (ho : s.op = .bcast) : slotPair s = ⟨s.breg, s.bdata⟩ := by
  simp [slotPair, ho]

/-- A `BCAST` does not read the frame buffer (R117). -/
theorem fbRaddr_of_bcast {s : State} (ho : s.op = .bcast) : fbRaddr s = none := by
  simp [fbRaddr, ho]

/-- The events of a `BCAST` up to its write number `k`, the window still open (R118). -/
def bcastEvents (p : ChipCommand) (k : Nat) : List BusEvent := .sa :: List.replicate k (.w p)

theorem bcastEvents_succ (p : ChipCommand) (k : Nat) :
    bcastEvents p (k + 1) = bcastEvents p k ++ [.w p] := by
  rw [bcastEvents, List.replicate_succ']; rfl

/-- A whole `BCAST` closes the window after `M` writes (R118). -/
theorem bcastTrace_eq_bcastEvents (cfg : Config) (p : ChipCommand) :
    bcastTrace cfg p = bcastEvents p cfg.modules ++ [.sd] := rfl

/-- The pairs of a `BCAST` are the same in every slot (R117). -/
theorem bcastTrace_eq_writes (cfg : Config) (p : ChipCommand) :
    bcastTrace cfg p = [.sa] ++ (List.replicate cfg.modules p).map .w ++ [.sd] := by
  simp [bcastTrace]

theorem length_bcastTrace (cfg : Config) (p : ChipCommand) :
    (bcastTrace cfg p).length = cfg.modules + 2 := by
  simp [bcastTrace]

theorem sd_notMem_bcastEvents (p : ChipCommand) (k : Nat) : .sd ∉ bcastEvents p k := by
  simp [bcastEvents]

/-- The state after `k` writes of the `BCAST` just accepted in `s`. -/
def bcastWindow (k : Nat) (s : State) : State :=
  { s with
    sel := true, j := k
    trace := s.trace ++ bcastEvents ⟨s.breg, s.bdata⟩ k
    chips := reactAll s.chips (bcastEvents ⟨s.breg, s.bdata⟩ k) }

/-- The state after the `done` of the `BCAST` just accepted in `s` (R118, R122). -/
def afterBcast (s : State) : State :=
  { s with
    busy := false, sel := false, r := 0, j := 0, waiting := false
    trace := s.trace ++ bcastTrace s.cfg ⟨s.breg, s.bdata⟩
    chips := reactAll s.chips (bcastTrace s.cfg ⟨s.breg, s.bdata⟩)
    configured := configuredAfter s.cfg
      (reactAll s.chips (bcastTrace s.cfg ⟨s.breg, s.bdata⟩)) ⟨s.breg, s.bdata⟩ s.configured }

section

variable {s : State}

theorem assertSelect_eq_bcastWindow (hj : s.j = 0) : assertSelect s = bcastWindow 0 s := by
  simp [assertSelect, emit, bcastWindow, bcastEvents, reactAll, hj]

theorem shiftPair_bcastWindow (k : Nat) (s : State) :
    shiftPair ⟨s.breg, s.bdata⟩ (bcastWindow k s) = bcastWindow (k + 1) s := by
  rw [bcastWindow, bcastWindow, bcastEvents_succ, ← List.append_assoc, reactAll_append]; rfl

theorem deassertSelect_bcastWindow (ho : s.op = .bcast) :
    deassertSelect (bcastWindow s.cfg.modules s) = afterBcast s := by
  rw [deassertSelect_of_last (lastTransaction_of_bcast (s := bcastWindow _ s) ho),
    configuredAfterDeassert_of_bcast (s := bcastWindow _ s) ho, afterBcast,
    bcastTrace_eq_bcastEvents, ← List.append_assoc, reactAll_append]
  rfl

/-- The window opens in the first step after the acceptance and takes one write a step (R93, R117). -/
theorem runFor_bcastWindow (h : AtFirstPosition s) (ho : s.op = .bcast) (hq : breach s = none)
    {k : Nat} (hk : k ≤ s.cfg.modules) : runFor (k + 1) s = .next (bcastWindow k s) := by
  obtain ⟨hf, hb, hs, -, hj⟩ := h
  induction k with
  | zero =>
    rw [runFor_one, step_before_window hf hq hb hs, assertSelect_eq_bcastWindow hj]
  | succ k ih =>
    rw [runFor_add (ih (by omega)), runFor_one,
      step_in_slot (s := bcastWindow k s) hf hq hb rfl hk,
      slotPair_of_bcast (s := bcastWindow k s) ho]
    exact congrArg _ (shiftPair_bcastWindow k s)

/-- A whole `BCAST` after its acceptance (R118). -/
theorem runFor_whole_bcast (h : AtFirstPosition s) (ho : s.op = .bcast) (hq : breach s = none) :
    runFor (s.cfg.modules + 2) s = .next (afterBcast s) := by
  have hrun := runFor_bcastWindow h ho hq le_rfl
  obtain ⟨hf, hb, -⟩ := h
  rw [runFor_add (n := 1) hrun, runFor_one,
    step_after_slots (s := bcastWindow s.cfg.modules s) hf hq hb rfl rfl,
    deassertSelect_bcastWindow ho]

/-- A `BCAST` from the step that accepts it to its `done`; `u` is `s` with the command on the port. -/
theorem runFor_accepted_bcast {u : State} {reg data : Byte} (hd : Disciplined s)
    (hstep : step s = .next (acceptBcast reg data u)) (hf : u.fault = none) (hs : u.sel = false) :
    runFor (1 + (u.cfg.modules + 2)) s = .next (afterBcast (acceptBcast reg data u)) := by
  have hrun : runFor 1 s = .next (acceptBcast reg data u) := by rw [runFor_one, hstep]
  exact runFor_trans hrun
    (runFor_whole_bcast ⟨hf, rfl, hs, rfl, rfl⟩ rfl
      (breach_of_disciplined (disciplined_of_run hd hrun)))

end

/-! ### What a `BCAST` leaves in the chain -/

section

variable {cfg : Config} {s : State} {c : Nat}

/-- A `BCAST` over `M` chips writes its register of every chip, and no other (R119). -/
theorem creg_of_bcastTrace (hlen : s.chips.length = cfg.modules) (p : ChipCommand) (c : Nat)
    (a : Byte) :
    creg (reacted (bcastTrace cfg p) s) c a =
      if c < cfg.modules ∧ a = p.reg then some p.data else creg s c a := by
  by_cases hc : c < cfg.modules
  · have hp : (List.replicate cfg.modules p).reverse[c]? = some p := by simp [hc]
    rw [bcastTrace_eq_writes, creg_of_transaction (hlen ▸ hc) hp]
    simp [hc]
  · rw [if_neg fun h => hc h.1, creg_of_length_le (by simp; omega), creg_of_length_le (by omega)]

theorem reacted_bcasts_cons (p : ChipCommand) (ps : List ChipCommand) (s : State) :
    reacted ((p :: ps).flatMap (bcastTrace cfg)) s =
      reacted (ps.flatMap (bcastTrace cfg)) (reacted (bcastTrace cfg p) s) := by
  rw [List.flatMap_cons, reacted_append]

/-- A register that none of some `BCAST`s names stays (R119). -/
theorem creg_of_unnamed_register {ps : List ChipCommand} {a : Byte}
    (hlen : s.chips.length = cfg.modules) (ha : a ∉ ps.map ChipCommand.reg) (c : Nat) :
    creg (reacted (ps.flatMap (bcastTrace cfg)) s) c a = creg s c a := by
  induction ps generalizing s with
  | nil => rfl
  | cons p ps ih =>
    obtain ⟨hne, hps⟩ : a ≠ p.reg ∧ a ∉ ps.map ChipCommand.reg := by
      rwa [List.map_cons, List.mem_cons, not_or] at ha
    rw [reacted_bcasts_cons, ih (by simpa using hlen) hps, creg_of_bcastTrace hlen,
      if_neg fun h => hne h.2]

/-- After `BCAST`s to distinct registers every chip holds the byte of each (R119). -/
theorem creg_of_distinct_bcasts {ps : List ChipCommand} {q : ChipCommand}
    (hlen : s.chips.length = cfg.modules) (hnd : (ps.map ChipCommand.reg).Nodup) (hq : q ∈ ps)
    (hc : c < cfg.modules) :
    creg (reacted (ps.flatMap (bcastTrace cfg)) s) c q.reg = some q.data := by
  induction ps generalizing s with
  | nil => simp at hq
  | cons p ps ih =>
    obtain ⟨hp, hnd⟩ := List.nodup_cons.1 hnd
    have hlen' : (reacted (bcastTrace cfg p) s).chips.length = cfg.modules := by simpa using hlen
    rw [reacted_bcasts_cons]
    obtain rfl | hq := List.mem_cons.1 hq
    · rw [creg_of_unnamed_register hlen' hp, creg_of_bcastTrace hlen, if_pos ⟨hc, rfl⟩]
    · exact ih hlen' hnd hq

/-- R121 in terms of the registers by chip number. -/
theorem initialised_of_creg
    (h : ∀ c, c < s.chips.length → ∀ p ∈ initPairs cfg, creg s c p.reg = some p.data) :
    initialised cfg s.chips = true := by
  simp only [initialised, List.all_eq_true, beq_iff_eq]
  intro chip hchip p hp
  obtain ⟨c, hc, rfl⟩ := List.getElem_of_mem hchip
  simpa [creg, hc] using h c hc p hp

/-- The registers of the five pairs are those that R121 asks to be distinct. -/
theorem nodup_initPairs (h : cfg.wellFormed = true) :
    ((initPairs cfg).map ChipCommand.reg).Nodup := by
  obtain ⟨hnd, -⟩ : cfg.regsDistinct = true ∧ cfg.regsOutsideRows = true := by
    simpa [Config.wellFormed] using h
  exact of_decide_eq_true hnd

/-- The five broadcasts of `INIT`, in any order, initialise the chain (R121, R122). -/
theorem initialised_of_initBcasts {order : List ChipCommand} (hwf : cfg.wellFormed = true)
    (hlen : s.chips.length = cfg.modules) (hperm : order.Perm (initPairs cfg)) :
    initialised cfg (reactAll s.chips (order.flatMap (bcastTrace cfg))) = true := by
  refine initialised_of_creg (s := reacted (order.flatMap (bcastTrace cfg)) s)
    fun c hc p hp => ?_
  exact creg_of_distinct_bcasts hlen ((hperm.map _).nodup_iff.2 (nodup_initPairs hwf))
    (hperm.mem_iff.2 hp) (by simpa [hlen] using hc)

end

/-! ### The boot sequence -/

/-- The machine between two lines of the boot sequence (R173, R174): the pairs of `sent` are broadcast and those of
`rest` are the program still to run, before the main loop. -/
structure Booting (cfg : Config) (sent rest : List ChipCommand) (s : State) : Prop where
  params : s.cfg = cfg
  fault : s.fault = none
  quiet : s.fbWrite = none ∧ s.busDrive = none
  idle : s.busy = false
  closed : s.sel = false
  waiting : s.waiting = false
  cmd : s.cmd = none
  prog : s.prog = rest.map bcastLine
  body : s.loopBody = frameLoopBody
  index : s.idx = 0
  taken : s.source.consumed = 0
  trace : s.trace = sent.flatMap (bcastTrace cfg)
  configured : sent ≠ [] → initialised cfg s.chips = true → s.configured = true

theorem booting_resetWith {cfg : Config} (h : cfg.chainLength = cfg.modules) :
    Booting cfg [] (initPairs cfg) (State.resetWith cfg) where
  params := rfl
  fault := if_pos h
  quiet := ⟨rfl, rfl⟩
  idle := rfl
  closed := rfl
  waiting := rfl
  cmd := rfl
  prog := rfl
  body := rfl
  index := rfl
  taken := rfl
  trace := rfl
  configured := fun hne => absurd rfl hne

/-- The state that accepts the `BCAST` of the line `p`, the lines `rest` following. -/
def acceptLine (p : ChipCommand) (rest : List ChipCommand) (s : State) : State :=
  acceptBcast p.reg p.data
    (presentLine (bcastWord p.reg p.data) (rest.map bcastLine) s)

section

variable {cfg : Config} {s : State} {p : ChipCommand} {sent rest : List ChipCommand}

theorem step_of_booting (h : Booting cfg sent (p :: rest) s) :
    step s = .next (acceptLine p rest s) := by
  refine step_of_bcast_line h.fault h.idle h.waiting h.cmd ?_
  simp [currentLines, h.prog]

/-- One line of the boot sequence, in its acceptance and `M+2` steps (R190). -/
theorem runFor_bootLine (h : Booting cfg sent (p :: rest) s) :
    runFor (cfg.modules + 3) s = .next (afterBcast (acceptLine p rest s)) := by
  obtain ⟨hw, he⟩ := h.quiet
  have hrun := runFor_accepted_bcast (disciplined_of_quiet hw he) (step_of_booting h) h.fault h.closed
  rwa [presentLine_cfg, h.params, Nat.add_comm] at hrun

theorem booting_afterBcast (h : Booting cfg sent (p :: rest) s) :
    Booting cfg (sent ++ [p]) rest (afterBcast (acceptLine p rest s)) :=
  { h with
    idle := rfl
    closed := rfl
    waiting := rfl
    cmd := rfl
    prog := rfl
    trace := by simp [afterBcast, acceptLine, h.trace, h.params]
    configured := fun _ hi => configuredAfter_of_initialised (by rwa [← h.params] at hi) }

/-- All the lines of the boot sequence, one after another. -/
theorem runFor_boot (h : Booting cfg sent rest s) :
    ∃ t, runFor (rest.length * (cfg.modules + 3)) s = .next t ∧ Booting cfg (sent ++ rest) [] t := by
  induction rest generalizing sent s with
  | nil => exact ⟨s, by simp [runFor], by simpa using h⟩
  | cons p rest ih =>
    obtain ⟨t, hrun, ht⟩ := ih (booting_afterBcast h)
    refine ⟨t, ?_, by simpa using ht⟩
    rw [List.length_cons, Nat.succ_mul, Nat.add_comm]
    exact runFor_trans (runFor_bootLine h) hrun

/-- With no line of `INIT` left it is `FA`'s turn, in the main loop (R134, R174). -/
theorem inMainLoop_of_booted (h : Booting cfg sent [] s) : InMainLoop s := by
  have hlines : currentLines s = frameLoopBody := by simp [currentLines, h.prog, h.body]
  exact ⟨⟨h.fault, h.idle, h.waiting, h.cmd, by simp [hlines, frameLoopBody]⟩, h.prog, h.body⟩

end

end Sys2Proof.Machine

namespace Sys2Proof.Safety

open Sys2Proof.Machine

/-- Settles O14: the idle block accepts; the operands of a word are its two lower fields. -/
theorem bcastIsAccepted : Obligations.BcastIsAccepted := by
  refine ⟨fun s reg data hf hb => ⟨acceptBcast reg data s, present_of_idle hf hb, rfl⟩,
    fun s w hf hb hc hw => ⟨_, step_of_bcast_command hf hb hc hw, rfl⟩,
    fun s hf hb hc => ⟨_, step_of_bcast_command hf hb hc rfl, rfl, rfl, rfl, rfl⟩⟩

/-- Settles O19: undisturbed, the window opens, every slot writes the operands, and the one transaction is the last. -/
theorem shiftBcastStep : Obligations.ShiftBcastStep := by
  intro s hf hd hb ho
  have hq : breach s = none := breach_of_disciplined hd
  refine ⟨step_before_window hf hq hb, fun hs hj => ?_, fun hs hj => ?_⟩
  · rw [txPair_open hf hq hb hs hj, step_in_slot hf hq hb hs hj, slotPair_of_bcast ho]
    exact ⟨fbRaddr_of_bcast ho, rfl, rfl⟩
  · have hl : lastTransaction s = true := lastTransaction_of_bcast ho
    refine ⟨(doneOut_after_slots hf hq hb hs hj).trans hl, _, step_after_slots hf hq hb hs hj, ?_⟩
    rw [deassertSelect_of_last hl]
    exact ⟨rfl, rfl, rfl, rfl, rfl⟩

/-- Settles O32: the five registers are distinct, so no broadcast undoes another. -/
theorem initBroadcastsInitialise : Obligations.InitBroadcastsInitialise :=
  fun cfg chips _ hwf hlen hperm =>
    initialised_of_initBcasts (s := { State.resetWith cfg with chips }) hwf hlen hperm

/-- Settles O36: the acceptance and the one transaction after it. -/
theorem bcastRunsToItsTrace : Obligations.BcastRunsToItsTrace :=
  ⟨fun _ _ hf hb hs hd hc hw =>
    ⟨_, runFor_accepted_bcast hd (step_of_bcast_command hf hb hc hw) hf hs,
      rfl, rfl, hf, rfl, rfl⟩, length_bcastTrace⟩

/-- Settles O38: up to the last write no chip has latched, and the `SD` makes every chip latch the one pair sent. -/
theorem bcastReachesEveryChip : Obligations.BcastReachesEveryChip := by
  intro s h ho hd hlen
  have hq : breach s = none := breach_of_disciplined hd
  refine ⟨fun n hn => ?_, afterBcast s, runFor_whole_bcast h ho hq, fun c hc => ?_,
    fun c a ha => ?_⟩
  · cases n with
    | zero => exact ⟨s, rfl, fun _ _ => rfl⟩
    | succ k =>
      refine ⟨bcastWindow k s, runFor_bcastWindow h ho hq (by omega), fun c a => ?_⟩
      rw [creg_of_chips (s := s) rfl, creg_of_no_sd (sd_notMem_bcastEvents _ k)]
  · rw [creg_of_chips (s := s) rfl, creg_of_bcastTrace hlen, if_pos ⟨hc, rfl⟩]
  · rw [creg_of_chips (s := s) rfl, creg_of_bcastTrace hlen, if_neg fun h => ha h.2]

/-- Settles O53: the lines of `INIT` run one after another, and the chain has reacted to exactly their events. -/
theorem bootRunsInit : Obligations.BootRunsInit := by
  intro cfg hfits
  have hboot : Booting cfg [] (initPairs cfg) (State.resetWith cfg) := booting_resetWith hfits
  refine ⟨⟨_, step_of_booting hboot, rfl, rfl, rfl, rfl⟩, ?_⟩
  obtain ⟨t, hrun, ht⟩ := runFor_boot hboot
  obtain ⟨hturn, hprog, hbody⟩ := inMainLoop_of_booted ht
  have hsteps : (initPairs cfg).length * (cfg.modules + 3) = 5 * (cfg.modules + 2) + 5 := by
    simp [initPairs]; omega
  refine ⟨t, hsteps ▸ hrun, hturn, hprog, hbody, ht.index, ht.taken, ht.trace, fun hwf => ?_⟩
  obtain ⟨events, htrace, hchips⟩ := runFor_events hrun
  obtain rfl : (initPairs cfg).flatMap (bcastTrace cfg) = events := ht.trace.symm.trans htrace
  refine ht.configured (List.cons_ne_nil _ _) ?_
  rw [hchips]
  exact initialised_of_initBcasts hwf (by simp [State.resetWith, hfits]) (List.Perm.refl _)

end Sys2Proof.Safety
end

section
/-!
The Frame Assembler and the byte source (spec/42_frame_assembler.md): the hand-off of a full frame, the end of the wait,
the poll that answers no data, the finished stream, and the premises on the channel and the bus, which the model gives
by itself.
-/

namespace Sys2Proof.Machine

open Sys2Proof.Safety

/-- When all of a finite stream is taken, every poll answers no data (R39, R137). -/
theorem poll_of_exhausted {h : ByteSource} (he : h.endless = false)
    (hc : h.consumed = h.stream.length) : h.poll = none := by
  have hnext : h.nextByte = none := by simp [ByteSource.nextByte, ByteSource.byteAt, hc, he]
  simp [ByteSource.poll, hnext]

/-- On its turn `FA` drives the write port with the byte of its poll, if there is one (R127, R128). -/
theorem fbPort_of_turn {s : State} (h : AssemblerTurn s) :
    fbPort s = s.source.poll.map fun b => ⟨s.idx, b⟩ := by
  have hpolls : assemblerPolls s = true := assemblerPolls_of_turn h
  obtain ⟨-, hb, -⟩ := h
  simp [fbPort, hb, hpolls]

/-- The step of `FA`'s turn when the poll answers no data (R127). -/
theorem step_of_noData {s : State} (h : AssemblerTurn s) (hp : s.source.poll = none) :
    step s = .next (pollNoData s) := by
  rw [step_of_assembler h, pollStep_of_noData hp]

/-- Within the buffer, a byte completes the frame exactly at the last offset (R129). -/
theorem completesFrame_iff_last {s : State} (hidx : s.idx < s.cfg.frameBytes) :
    completesFrame s = true ↔ s.idx + 1 = s.cfg.frameBytes :=
  ⟨last_of_completesFrame hidx, completesFrame_of_last⟩

end Sys2Proof.Machine

namespace Sys2Proof.Safety

open Sys2Proof.Machine

/-- R137: the channel loses nothing in any run, for no step but `POLL_BYTE` takes a byte. -/
theorem channelLossless (s : State) : ChannelLossless s := fun _ t hrun =>
  have ⟨hstream, hendless⟩ := runFor_stream hrun
  ⟨hstream, hendless, poll_eq_none_or_nextByte t.source, fun _ hstep =>
    have ⟨_, _, htaken⟩ := step_source hstep
    htaken⟩

/-- R137: the poll that is due for the next byte is finitely many polls away. -/
theorem fair (s : State) : Fair s := fun _ t _ _ hb => ⟨t.source.due, poll_after_due hb⟩

/-- R144: the chain reacts to each event in the step that emits it. -/
theorem busReliable (s : State) : BusReliable s := fun _ _ => runFor_events

/-- Settles O43: on its turn `FA` polls, and a poll without a byte drives no port and advances the poll number. -/
theorem noDataChangesNothing : Obligations.NoDataChangesNothing := fun s hturn hp =>
  ⟨by simp [fbPort_of_turn hturn, hp], step_of_noData hturn hp⟩

/-- Settles O45: only the update `POLL_BYTE` takes a byte or begins a wait, and it begins one at the last offset. -/
theorem handOffExactlyWhenFull : Obligations.HandOffExactlyWhenFull := by
  intro s t hinv hstep hn
  obtain ⟨-, hc⟩ := step_next hstep
  cases hc with
  | byte hb =>
    refine ⟨by simp [hn, completesFrame_iff_last hinv.index], fun hw => ?_⟩
    have hfull : completesFrame s = true := by simpa [hn] using hw
    rw [pollByte_of_completing _ hfull]
    exact ⟨rfl, rfl, hb⟩
  | _ => simp [hn]

/-- Settles O46: of the updates, only `DEASSERT` can clear `waiting`, and it does so on a last transaction, with
`done`. -/
theorem onlyDoneEndsTheWait : Obligations.OnlyDoneEndsTheWait := by
  intro s t hstep hw
  constructor
  · intro ht
    obtain ⟨-, hc⟩ := step_next hstep
    cases hc with
    | deassert hb hs hj =>
      exact (doneOut_of_step_deassert hb hs hj hstep).2 (by simpa [hw] using ht)
    | _ => simp [hw] at ht
  · intro hd
    obtain ⟨-, -, -, hlast, -⟩ := (doneOut_iff s).1 hd
    obtain rfl : deassertSelect s = t := by simpa [step_of_doneOut hd] using hstep
    simp [hlast]

/-- Settles O49, by induction on the number of steps: each is a poll that answers no data, after which the run is over
as before. -/
theorem finishedRunStaysAsItIs : Obligations.FinishedRunStaysAsItIs := by
  intro s hover hturn n
  induction n generalizing s with
  | zero => rfl
  | succ n ih =>
    have ⟨hendless, hconsumed, _⟩ := hover
    have hstep : step s = .next (pollNoData s) :=
      step_of_noData hturn (poll_of_exhausted hendless hconsumed)
    have hone : runFor 1 s = .next (pollNoData s) := by rw [runFor_one, hstep]
    rw [Nat.add_comm n 1, runFor_add hone, ih (pollNoData s) hover hturn]
    simp [pollNoData, ByteSource.afterNoData, Nat.add_assoc]

/-- Settles O55: each of the three premises, in the run from any state. -/
theorem channelAndBusAreReliable : Obligations.ChannelAndBusAreReliable := fun s =>
  ⟨channelLossless s, fair s, busReliable s⟩

end Sys2Proof.Safety
end

section
/-!
Exceptions and the chain (spec/60_exceptions.md): the faults of R145 that a step, a row command or the reset records, the
reactions of the chain to a write and to `SD`, and what the modules show.
-/

namespace Sys2Proof.Machine

open Sys2Proof.Safety

/-! ### The faults (R145) -/

/-- The configuration check of R182, made once, at reset. -/
theorem resetWith_fault_of_mismatch {cfg : Config} (h : cfg.chainLength ≠ cfg.modules) :
    (State.resetWith cfg).fault = some .chainLengthMismatch := if_neg h

theorem resetWith_fault_of_fits {cfg : Config} (h : cfg.chainLength = cfg.modules) :
    (State.resetWith cfg).fault = none := if_pos h

section

variable {s : State}

theorem breach_of_busDrive {e : BusEvent} (hb : s.busy = true) (hw : s.fbWrite = none)
    (he : s.busDrive = some e) : breach s = some .busTouchedByOther := by
  simp [breach, hb, hw, he]

/-- Without a write on the frame buffer's port, the bus is all that another agent can touch. -/
theorem breach_of_fbWrite_none (hb : s.busy = true) (hw : s.fbWrite = none) :
    breach s = none ∨ breach s = some .busTouchedByOther := by
  cases he : s.busDrive with
  | none => exact .inl (breach_of_disciplined (disciplined_of_quiet hw he))
  | some e => exact .inr (breach_of_busDrive hb hw he)

/-- A pair on the bus of a busy block whose inputs break a contract (R147). -/
theorem busWrite_of_breach (p : ChipCommand) {f : FaultReason} (hf : s.fault = none)
    (hq : breach s = some f) : busWrite p s = .next (raiseFault f s) := by
  simp [busWrite, hf, busy_of_breach hq, hq]

/-- A pair on the bus of a busy block that is not the block's own comes from another agent (log entry 16). -/
theorem busWrite_of_other_pair {p : ChipCommand} (hf : s.fault = none) (hb : s.busy = true)
    (hw : s.fbWrite = none) (hp : txPair s ≠ some p) :
    busWrite p s = .next (raiseFault .busTouchedByOther s) := by
  obtain hq | hq := breach_of_fbWrite_none hb hw
  · rw [busWrite_busy hf hb hq, if_neg hp]
  · exact busWrite_of_breach p hf hq

/-- A pair on the bus of an idle block (log entry 7). -/
theorem busWrite_of_idle (p : ChipCommand) (hf : s.fault = none) (hb : s.busy = false) :
    busWrite p s = .next { s with chips := react (.w p) s.chips } := by
  simp [busWrite, hf, hb]

end

/-! ### The chain (R156, R157) -/

section

variable {p : ChipCommand} {cs ds : List Chip} {c d : Chip} {n : Nat}

/-- On a write the new pair stands before those of the chain, each of which is one chip further (R156). -/
theorem sh_of_write (hd : (react (.w p) cs)[n]? = some d) :
    (some p :: cs.map Chip.sh)[n]? = some d.sh := by
  have hn : n < cs.length := by simpa using (List.getElem?_eq_some_iff.1 hd).1
  have hstage : ((react (.w p) cs).map Chip.sh)[n]? = some d.sh := by
    rw [List.getElem?_map, hd]; rfl
  rwa [react, shiftStages_shiftIn, List.getElem?_take_of_lt hn] at hstage

/-- Chips of one place in two chains with the same register files show the same registers. -/
theorem creg_of_same_regs (h : ds.map Chip.regs = cs.map Chip.regs) (hc : cs[n]? = some c)
    (hd : ds[n]? = some d) (a : Byte) : d.creg a = c.creg a := by
  have hregs : d.regs = c.regs := by
    simpa [hc, hd] using congrArg (fun l => l[n]?) h
  rw [Chip.creg, Chip.creg, hregs]

/-- After as many writes as chips, chip `n` holds the pair sent `n` before the last (R156). -/
theorem sh_of_writes {ws : List ChipCommand} (hlen : ws.length = cs.length)
    (hc : (reactAll cs (ws.map .w))[n]? = some c) : c.sh = ws[ws.length - 1 - n]? := by
  have hn : n < cs.length := by simpa using (List.getElem?_eq_some_iff.1 hc).1
  have hlast : n < ws.reverse.length := by simpa [hlen] using hn
  have hsent : ws.reverse[n]? = some ws.reverse[n] := List.getElem?_eq_getElem hlast
  have hstage : some c.sh = some (some ws.reverse[n]) := by
    rw [← shiftStage_of_writes hn hsent, List.getElem?_map, hc]; rfl
  rw [← List.getElem?_reverse (hlen ▸ hn), hsent]
  exact Option.some.inj hstage

/-- On `SD` every chip latches (R157). -/
theorem latch_of_sd (hc : cs[n]? = some c) : (react .sd cs)[n]? = some c.latch := by
  rw [react, List.getElem?_map, hc]; rfl

end

/-! ### The display (R160) -/

theorem shownRow_of_unconfigured {s : State} (h : s.configured = false) (c : Nat)
    (r : BitVec 3) : shownRow s c r = none := by
  simp [shownRow, h]

/-- Distinct columns: no two bits have one. -/
theorem colOfBit_injective {cfg : Config} (h : cfg.columnsDistinct = true) {a b : Fin 8}
    (hab : cfg.colOfBit[a.val] = cfg.colOfBit[b.val]) : a = b := by
  have hnodup : cfg.colOfBit.toList.Nodup := of_decide_eq_true h
  exact Fin.ext ((hnodup.getElem_inj_iff (hi := by simp) (hj := by simp)).1 (by simpa using hab))

/-- Then the bit whose pixel stands at a bit's column is that bit. -/
theorem bitAtColumn_colOfBit {cfg : Config} (h : cfg.columnsDistinct = true) (b : Fin 8) :
    bitAtColumn cfg cfg.colOfBit[b.val] = some b := by
  have hsome : (bitAtColumn cfg cfg.colOfBit[b.val]).isSome := by
    rw [bitAtColumn, List.find?_isSome]
    exact ⟨b, List.mem_finRange b, beq_self_eq_true _⟩
  obtain ⟨a, ha⟩ := Option.isSome_iff_exists.1 hsome
  have hab : cfg.colOfBit[a.val] = cfg.colOfBit[b.val] := by simpa using List.find?_some ha
  rw [ha, colOfBit_injective h hab]

end Sys2Proof.Machine

namespace Sys2Proof.Safety

open Sys2Proof.Machine

/-- Settles O25: a row command is its pair on the bus, where a busy block whose slot does not carry it records a fault and
an idle one lets the chain shift. -/
theorem rowCommandsFromAnotherAgent : Obligations.RowCommandsFromAnotherAgent := by
  intro x hx s d hf
  rw [exec_of_decodePair (decodePair_rowCommand d x hx)]
  exact ⟨busWrite_of_other_pair hf,
    fun w hb hw => busWrite_of_breach _ hf (breach_of_fbWrite hb hw),
    busWrite_of_idle _ hf⟩

/-- Settles O30: the stages after a write are the new pair and those of the chain, and no register file is touched. -/
theorem chainShiftsByOnePair : Obligations.ChainShiftsByOnePair := by
  refine ⟨fun p cs => ⟨length_react _ cs, fun c hc => ?_, fun n c d hc hd => ?_,
    fun n c d a hc hd => ?_⟩, fun ws cs hlen n c => sh_of_writes hlen⟩
  · simpa using (sh_of_write hc).symm
  · simpa [hc] using (sh_of_write hd).symm
  · exact creg_of_same_regs (regs_shiftIn (some p) cs) hc hd a

/-- Settles O31: every chip of the chain latches, by the pair of its shift stage. -/
theorem chipsLatchTogether : Obligations.ChipsLatchTogether := by
  refine fun cs => ⟨length_react _ cs, fun n c hc => ⟨c.latch, latch_of_sd hc, c.latch_sh,
    fun p hp => ⟨?_, fun a ha => ?_⟩, fun hp a => ?_⟩⟩
  · simp [Chip.creg_latch, hp]
  · simp [Chip.creg_latch, hp, ha]
  · simp [Chip.creg_latch, hp]

/-- Settles O34: a row's value by `configured`, and a pixel by the one bit that stands at its column. -/
theorem shownRowsAndPixels : Obligations.ShownRowsAndPixels := by
  refine fun s c r => ⟨shownRow_of_configured, (shownRow_of_unconfigured · c r),
    fun v b hv hcols => ?_⟩
  rw [pixelAt, bitAtColumn_colOfBit hcols, Option.bind_some, pixelOfBit, hv, Option.map_some]

/-- Settles O7: the check at reset records the fault, and a faulted machine takes no step. -/
theorem wrongChainLengthFaultsAtReset : Obligations.WrongChainLengthFaultsAtReset := fun _ =>
  ⟨fun h => ⟨resetWith_fault_of_mismatch h, step_of_fault (resetWith_fault_of_mismatch h)⟩,
    resetWith_fault_of_fits⟩

/-- Settles O41: either input breaks a contract of the busy block, the write on the frame buffer's port before the
event on the bus. -/
theorem brokenContractIsRecorded : Obligations.BrokenContractIsRecorded := fun _ hf hb =>
  ⟨fun _ hw => step_of_breach hf (breach_of_fbWrite hb hw),
    fun _ hw he => step_of_breach hf (breach_of_busDrive hb hw he)⟩

end Sys2Proof.Safety
end

section
/-!
The values after reset (spec/70_reset_and_hazards.md R171, R172): of the block and of its environment.
-/

namespace Sys2Proof.Machine

/-- R29: an idle block is not done. -/
theorem doneOut_of_idle {s : State} (h : s.busy = false) : doneOut s = false := by
  simp [doneOut, h]

/-- R172: the chain after reset is made of chips at power-on. -/
theorem eq_blank_of_mem_resetWith {cfg : Config} {c : Chip} (hc : c ∈ (State.resetWith cfg).chips) :
    c = .blank := List.eq_of_mem_replicate hc

end Sys2Proof.Machine

namespace Sys2Proof.Safety

open Sys2Proof.Machine

/-- Settles O5: with a chain that fits no fault is recorded, so the idle block is ready; an empty list of cells reads
as zero everywhere. -/
theorem blockResetValues : Obligations.BlockResetValues := by
  intro cfg hfits s
  have hidle : s.busy = false := rfl
  have hfault : s.fault = none := resetWith_fault_of_fits hfits
  exact ⟨hidle, rfl, rfl, rfl, rfl, rfl, rfl, hfault, rfl, doneOut_of_idle hidle,
    (cmdReady_iff s).2 ⟨hidle, hfault⟩, fun a _ => Memory.read_empty a⟩

/-- Settles O6: every chip is one at power-on, and a chain that is not configured shows nothing. -/
theorem environmentResetValues : Obligations.EnvironmentResetValues := by
  intro cfg s
  have hunconfigured : s.configured = false := rfl
  refine ⟨rfl, rfl, rfl, hunconfigured, List.length_replicate, fun c hc => ?_,
    shownRow_of_unconfigured hunconfigured⟩
  obtain rfl := eq_blank_of_mem_resetWith hc
  exact ⟨rfl, Chip.creg_blank⟩

end Sys2Proof.Safety
end
